-- ==== Sys2Proof/Word.lean ====
section
/-! DEFINITION. The word types of the EPD266 block (10_state.md R44). -/

namespace Sys2Proof

/-- Opcode, data byte, byte of the frame buffer (R44). -/
abbrev Byte := BitVec 8

/-- Pixel coordinate, 16-bit two's complement (R44, R92). -/
abbrev Coord := BitVec 16

/-- Byte address on `fb_raddr` and in FB_ADDR (R36, R93). -/
abbrev FbAddr := BitVec 13

/-- Wait site W0 to W3 (R211). -/
abbrev Site := BitVec 2

end Sys2Proof
end

