-- ==== Sys2Proof/Config.lean ====
section
/-! DEFINITION. What is fixed: the constants the source settles (00_scope.md R7), the open parameters of a board (R9), and
the free values, which nothing in the model evaluates. -/

namespace Sys2Proof

/-! ### Fixed parameters (R7) -/

/-- WIDTH, in pixels. -/
def Config.width : Nat := 152
/-- HEIGHT, in pixels. -/
def Config.height : Nat := 296
/-- STRIDE, bytes per row. -/
def Config.stride : Nat := 19
/-- FB_BYTES = STRIDE * HEIGHT. -/
def Config.fbBytes : Nat := 5624
/-- T_RST_HIGH1 and T_RST_HIGH2, ms. -/
def Config.rstHighMs : BitVec 8 := 200#8
/-- T_RST_LOW, ms. -/
def Config.rstLowMs : BitVec 8 := 2#8
/-- TIMEOUT_MS. -/
def Config.timeoutMs : Nat := 20000
/-- POLL_MS. -/
def Config.pollMs : Nat := 100
/-- SETTLE_MS. -/
def Config.settleMs : Nat := 100
/-- OP_SOFT_RESET. -/
def Config.opSoftReset : Byte := 0x12#8
/-- OP_DATA_ENTRY_MODE. -/
def Config.opDataEntryMode : Byte := 0x11#8
/-- OP_SET_X_RANGE. -/
def Config.opSetXRange : Byte := 0x44#8
/-- OP_SET_Y_RANGE. -/
def Config.opSetYRange : Byte := 0x45#8

/-! ### Constant operands of the panel commands (R103, R105, R106) -/

/-- DATA_ENTRY_MODE's mode byte (R106). -/
def Config.entryModeByte : Byte := 0x03#8
/-- First byte column, counted from 1 (R103); also the X counter (R149). -/
def Config.xStart : Byte := 0x01#8
/-- Last byte column, 19 = STRIDE (R103). -/
def Config.xEnd : Byte := 0x13#8
/-- First row (R105). -/
def Config.yStart : BitVec 16 := 0x0000#16
/-- End of the Y range, 0x0128 = 296 = HEIGHT, not HEIGHT - 1 (R105, 90_conflicts.md C2). -/
def Config.yEnd : BitVec 16 := 0x0128#16
/-- Y counter, HEIGHT - 1 = 295 = 0x0127 (R105, R150). -/
def Config.yCounter : BitVec 16 := 0x0127#16
/-- DEEP_SLEEP's byte, deep-sleep mode 1 (R106). -/
def Config.deepSleepByte : Byte := 0x01#8

/-! ### Open parameters (R9) -/

/-- The open parameters of R9: named arguments of the model, held in the state and changed by no step. CLK_HZ is
`Config.clkHz`. -/
structure Params where
  opSetXCounter : Byte
  opSetYCounter : Byte
  opWriteRam : Byte
  opActivate : Byte
  opDeepSleep : Byte
  /-- DC_CMD_LEVEL: the level of `dc_out` that means "command". -/
  dcCmdLevel : Bool
  /-- CS_ACTIVE_LEVEL: the level of `cs_out` that means "selected". -/
  csActiveLevel : Bool
  /-- SYNC_STAGES: flip-flops in the busy-line synchronizer. -/
  syncStages : Nat
  deriving DecidableEq, Repr

/-- The defaults the spec suggests (R9, 93_implementation_defined.md G1 to G3, G6). PRESUMED, log entry 1. -/
def Params.suggested : Params where
  opSetXCounter := 0x4E#8
  opSetYCounter := 0x4F#8
  opWriteRam := 0x24#8
  opActivate := 0x20#8
  opDeepSleep := 0x10#8
  dcCmdLevel := false
  csActiveLevel := false
  syncStages := 2

/-- The nine opcodes of the panel command set (R100). -/
def Params.opcodes (p : Params) : List Byte :=
  [Config.opSoftReset, Config.opDataEntryMode, Config.opSetXRange, Config.opSetYRange, p.opSetXCounter,
    p.opSetYCounter, p.opWriteRam, p.opActivate, p.opDeepSleep]

/-- R9: "The nine opcodes must be pairwise distinct for the opcode table to decode". -/
abbrev Params.distinct (p : Params) : Prop := p.opcodes.Nodup

/-! ### Free values

Constants without a body: no proof can see what they are, so a claim about them holds for every value. -/

/-- CLK_HZ (R9, default "none"): "no rule depends on it" (92_eei_decisions.md D1). Log entry 2. -/
opaque Config.clkHz : Nat

/-- The level the n-th busy sample of a run draws where the environment's list has ended (R214, U16: "`any value` per
sample"). FREE VALUE, log entry 3. -/
opaque Config.busyLevel : Nat → Bool

/-- What the stage `k` of the synchronizer before the last holds at the n-th sample (R39, R219): the level of `busy_in` at a
clock edge after the one whose level the sample reads. FREE VALUE, log entry 6. -/
opaque Config.syncLevel : Nat → Nat → Bool

/-- The level of `busy_in` at the n-th clock edge a step represents, where the environment's list has ended (R39, R287:
"samples are arbitrary"). FREE VALUE, log entry 6. -/
opaque Config.lineLevel : Nat → Bool

/-- The n-th unspecified byte on `fb_rdata` (R125, U9, U10: "`any value`"). FREE VALUE, log entry 4. -/
opaque Config.portByte : Nat → Byte

/-- The byte that address `a` of FB holds between the n-th block reset and the first write to it (R25: "no defined
value"). FREE VALUE, log entry 5. -/
opaque Config.unwrittenByte : Nat → Nat → Byte

end Sys2Proof
end

