-- ==== Sys2Proof/Syntax.lean ====
section
/-! DEFINITION. The instructions of the EPD266 block: one constructor per row of spec/opcode_table.json, in the three
layers of 00_scope.md R3; the encodings a host or a reader of the bus meets (30_encoding.md). -/

namespace Sys2Proof

/-- The mode line's two meanings (R98). -/
inductive BusMode where
  | cmd
  | data
  deriving DecidableEq, Repr

/-- Operand of SEND_BLOCK (R142): the bytes ROW_FETCH produces on the fly (R126), which is the only use, or a byte
sequence written out (95_test_vectors.md EN4). -/
inductive BlockSrc where
  | rowFetch
  | bytes (bs : List Byte)
  deriving DecidableEq, Repr

/-- The instructions, by the rows of spec/opcode_table.json. -/
inductive Instr where
  /-- SWRESET (R145). -/
  | swreset
  /-- DATA_ENTRY_MODE (R146). -/
  | dataEntryMode
  /-- SET_X_RANGE (R147). -/
  | setXRange
  /-- SET_Y_RANGE (R148). -/
  | setYRange
  /-- SET_X_COUNTER (R149). -/
  | setXCounter
  /-- SET_Y_COUNTER (R150). -/
  | setYCounter
  /-- WRITE_RAM (R151). -/
  | writeRam
  /-- ACTIVATE (R152). -/
  | activate
  /-- DEEP_SLEEP (R153). -/
  | deepSleep
  /-- SET_PIXEL (R120): `px_x`, `px_y`, `px_on`. -/
  | setPixel (x y : Coord) (on : Bool)
  /-- UPDATE (R180). -/
  | update
  /-- SLEEP (R190). -/
  | sleep
  /-- SETUP (R170): `cfg_has_reset`, `cfg_has_busy`, `cfg_full_update_every`. -/
  | setup (hasReset hasBusy : Bool) (fullUpdateEvery : BitVec 32)
  /-- FB_READ (R124): `fb_raddr`. -/
  | fbRead (a : FbAddr)
  /-- FILL (R123). -/
  | fill
  /-- RESET_PULSE (R173). -/
  | resetPulse
  /-- SEND_CMD (R140). -/
  | sendCmd (op : Byte)
  /-- SEND_DATA (R141). -/
  | sendData (b : Byte)
  /-- SEND_BLOCK (R142). -/
  | sendBlock (src : BlockSrc)
  /-- WAIT_IDLE (R210). -/
  | waitIdle (w : Site)
  /-- DELAY (R220): milliseconds. -/
  | delay (n : BitVec 8)
  deriving DecidableEq, Repr

/-- The operations the host requests by a line of their own (R91). -/
inductive HostOp where
  | setup
  | update
  | sleep
  | setPixel
  deriving DecidableEq, Repr

/-- The host's request ports (R20, R91 to R94): the four request lines and their operands. -/
structure Request where
  setupReq : Bool
  updateReq : Bool
  sleepReq : Bool
  pxWe : Bool
  pxX : Coord
  pxY : Coord
  pxOn : Bool
  cfgHasReset : Bool
  cfgHasBusy : Bool
  cfgFullUpdateEvery : BitVec 32
  deriving DecidableEq, Repr

/-- All request lines low, all operands zero. -/
def Request.none : Request where
  setupReq := false
  updateReq := false
  sleepReq := false
  pxWe := false
  pxX := 0
  pxY := 0
  pxOn := false
  cfgHasReset := false
  cfgHasBusy := false
  cfgFullUpdateEvery := 0

/-- An instruction as the hardware lays it out (R90): the request ports, the read address, or the opcode byte of a panel
command, whose data bytes are constants the opcode fixes (R100, R109). -/
inductive Code where
  | request (r : Request)
  | port (a : FbAddr)
  | opcode (op : Byte)
  deriving DecidableEq, Repr

/-- Why a code is no instruction. -/
inductive DecodeError where
  /-- All request lines are low (R91, 0b0000). -/
  | noRequest
  /-- A byte that is none of the nine opcodes (R108). -/
  | unknownOpcode (op : Byte)
  /-- A bus byte in data mode where a command frame must stand (R100). -/
  | strayData (b : Byte)
  /-- Fewer data bytes than the opcode's length (R100, R107). -/
  | missingData (i : Instr)
  /-- Data bytes other than the constants of the command (R100), or a command byte among them. -/
  | wrongData (i : Instr)
  /-- No bus byte at all. -/
  | empty
  deriving DecidableEq, Repr

end Sys2Proof
end

