-- ==== Sys2Proof/WellFormed.lean ====
section
/-! DEFINITION. Which instruction terms the spec allows, as decidable checks. -/

namespace Sys2Proof

/-- The milliseconds a DELAY may take (R220: "one of the constants 2, 100, 200"). -/
def delayOk (n : BitVec 8) : Bool := n == 2#8 || n == 100#8 || n == 200#8

/-- A block frame carries at least one byte (R97, R142). -/
def BlockSrc.nonempty : BlockSrc → Bool
  | .rowFetch => true
  | .bytes bs => !bs.isEmpty

/-- The instruction is one the spec allows on a board with parameters `p`: a command frame carries one of the nine
opcodes (R108), a block is not empty (R142), a delay is one of the three (R220). Everything else takes every operand:
coordinates outside the panel are legal (R109), and so is every read address (R93). -/
def Instr.wellFormed (p : Params) : Instr → Bool
  | .sendCmd op => p.opcodes.contains op
  | .sendBlock src => src.nonempty
  | .delay n => delayOk n
  | _ => true

end Sys2Proof
end

