-- ==== Sys2Proof/Decode.lean ====
section
/-! DEFINITION. The decoders and encoders of 30_encoding.md: the host's request vector and read address (R91 to R94), the
opcode byte (R100), the bytes of a panel command on the bus (R100 to R107), and the table's numbering of an instruction's
bits. Every decoder is total and rejects by name. -/

namespace Sys2Proof

/-! ### Host requests (R91, R235) -/

/-- The request vector `req[3:0] = px_we ++ sleep_req ++ update_req ++ setup_req` (R91). -/
def requestVector (r : Request) : BitVec 4 :=
  BitVec.ofBool r.pxWe ++ BitVec.ofBool r.sleepReq ++ BitVec.ofBool r.updateReq ++ BitVec.ofBool r.setupReq

/-- The request lines of a vector, all operands zero. -/
def requestOfVector (v : BitVec 4) : Request :=
  { Request.none with
    setupReq := v.getLsbD 0
    updateReq := v.getLsbD 1
    sleepReq := v.getLsbD 2
    pxWe := v.getLsbD 3 }

/-- The operation served: "the first legal one in the fixed priority order SET_PIXEL, UPDATE, SLEEP, SETUP" (R235), with
the operands on the ports (R92, R94). `legal` says which operations the block may accept. -/
def selectRequest (legal : HostOp → Bool) (r : Request) : Option Instr :=
  if r.pxWe && legal .setPixel then some (.setPixel r.pxX r.pxY r.pxOn)
  else if r.updateReq && legal .update then some .update
  else if r.sleepReq && legal .sleep then some .sleep
  else if r.setupReq && legal .setup then some (.setup r.cfgHasReset r.cfgHasBusy r.cfgFullUpdateEvery)
  else none

/-! ### Panel commands (R100) -/

/-- A row of the command set of R100: the opcode, the instruction, the data bytes the block sends after it; a command
with a block frame has none listed, its payload is the frame (R107). -/
structure CmdRow where
  opcode : Byte
  instr : Instr
  data : List Byte
  payload : Bool
  deriving DecidableEq, Repr

/-- A 16-bit field "is sent as two data bytes, least significant byte first" (R67). -/
def fieldBytes (v : BitVec 16) : List Byte := [v.extractLsb' 0 8, v.extractLsb' 8 8]

/-- The complete command set, in the order of R100. -/
def commandRows (p : Params) : List CmdRow :=
  [ ⟨Config.opSoftReset, .swreset, [], false⟩,
    ⟨Config.opDataEntryMode, .dataEntryMode, [Config.entryModeByte], false⟩,
    ⟨Config.opSetXRange, .setXRange, [Config.xStart, Config.xEnd], false⟩,
    ⟨Config.opSetYRange, .setYRange, fieldBytes Config.yStart ++ fieldBytes Config.yEnd, false⟩,
    ⟨p.opSetXCounter, .setXCounter, [Config.xStart], false⟩,
    ⟨p.opSetYCounter, .setYCounter, fieldBytes Config.yCounter, false⟩,
    ⟨p.opWriteRam, .writeRam, [], true⟩,
    ⟨p.opActivate, .activate, [], false⟩,
    ⟨p.opDeepSleep, .deepSleep, [Config.deepSleepByte], false⟩ ]

/-- The row of an opcode byte. -/
def rowOfOpcode (p : Params) (op : Byte) : Option CmdRow :=
  (commandRows p).find? (fun r => r.opcode == op)

/-- The row of a panel command; none for the other two layers. -/
def rowOfInstr (p : Params) (i : Instr) : Option CmdRow :=
  (commandRows p).find? (fun r => r.instr == i)

/-! ### Codes -/

/-- The instruction a code stands for. A request vector is read with every operation legal, as the masks of
spec/opcode_table.json are; the machine itself selects by the state (R233). -/
def decode (p : Params) : Code → Except DecodeError Instr
  | .request r =>
    match selectRequest (fun _ => true) r with
    | some i => .ok i
    | none => .error .noRequest
  | .port a => .ok (.fbRead a)
  | .opcode op =>
    match rowOfOpcode p op with
    | some r => .ok r.instr
    | none => .error (.unknownOpcode op)

/-- The code of an instruction, written from R91 to R94 and R100; none for the internal primitives, which have no
encoding (R3, spec/opcode_table.json format PRIM). -/
def encode (p : Params) : Instr → Option Code
  | .swreset => some (.opcode Config.opSoftReset)
  | .dataEntryMode => some (.opcode Config.opDataEntryMode)
  | .setXRange => some (.opcode Config.opSetXRange)
  | .setYRange => some (.opcode Config.opSetYRange)
  | .setXCounter => some (.opcode p.opSetXCounter)
  | .setYCounter => some (.opcode p.opSetYCounter)
  | .writeRam => some (.opcode p.opWriteRam)
  | .activate => some (.opcode p.opActivate)
  | .deepSleep => some (.opcode p.opDeepSleep)
  | .setPixel x y on => some (.request { Request.none with pxWe := true, pxX := x, pxY := y, pxOn := on })
  | .update => some (.request { Request.none with updateReq := true })
  | .sleep => some (.request { Request.none with sleepReq := true })
  | .setup hr hb n =>
    some (.request { Request.none with setupReq := true, cfgHasReset := hr, cfgHasBusy := hb, cfgFullUpdateEvery := n })
  | .fbRead a => some (.port a)
  | .fill => none
  | .resetPulse => none
  | .sendCmd _ => none
  | .sendData _ => none
  | .sendBlock _ => none
  | .waitIdle _ => none
  | .delay _ => none

/-! ### A panel command on the bus (R98, R100 to R107) -/

/-- The bytes of a panel command on the bus, each with the mode it is sent in: the opcode, then the constant data bytes,
or the frame payload for a command with a block frame. -/
def commandBytes (p : Params) (payload : List Byte) (i : Instr) : List (BusMode × Byte) :=
  match rowOfInstr p i with
  | none => []
  | some r => (BusMode.cmd, r.opcode) :: (if r.payload then payload else r.data).map (fun b => (BusMode.data, b))

/-- Reads one panel command from the bus bytes and answers it with the bytes after it: a command byte, then the number
of data bytes its opcode fixes (R100), which are the block's constants or, for a block frame, any 5624 bytes (R107). -/
def readCommand (p : Params) : List (BusMode × Byte) → Except DecodeError (Instr × List (BusMode × Byte))
  | [] => .error .empty
  | (.data, b) :: _ => .error (.strayData b)
  | (.cmd, op) :: rest =>
    match rowOfOpcode p op with
    | none => .error (.unknownOpcode op)
    | some r =>
      let n := if r.payload then Config.fbBytes else r.data.length
      if rest.length < n then .error (.missingData r.instr)
      else if (rest.take n).all (fun mb => mb.1 == BusMode.data) && (r.payload || (rest.take n).map (·.2) == r.data) then
        .ok (r.instr, rest.drop n)
      else .error (.wrongData r.instr)

/-! ### The table's numbering -/

/-- The code whose bits are `w` in the numbering of spec/opcode_table.json. One byte is an opcode, or, below 16, a request
vector in bits 3 to 0 (no opcode of the table is below 16), 0 being no request line and so the read port alone; two
bytes are a read address in bits 12 to 0, the ports above it zero. Log entry 22. -/
def codeOfTable (nbits w : Nat) : Option Code :=
  if nbits = 8 then
    if w = 0 then some (.port 0)
    else if w < 16 then some (.request (requestOfVector (BitVec.ofNat 4 w)))
    else if w < 256 then some (.opcode (BitVec.ofNat 8 w))
    else none
  else if nbits = 16 then
    if w < 8192 then some (.port (BitVec.ofNat 13 w)) else none
  else none

/-- The instruction the decoder reads from an instruction whose bits are `w`, at the suggested opcodes. -/
def decodeTableWord (nbits w : Nat) : Option Instr :=
  match codeOfTable nbits w with
  | none => none
  | some c =>
    match decode Params.suggested c with
    | .ok i => some i
    | .error _ => none

end Sys2Proof
end

