-- ==== Sys2Proof/Machine/State.lean ====
section
/-! DEFINITION. The state of the block as plain data (10_state.md), its value at reset (R42), and the reasons a step can
stop. Every field is listed with its rule in INVENTORY.md. -/

namespace Sys2Proof.Machine

/-- The stages of the state machine, the values of STATE (R21). The value 7 is never taken. -/
inductive Stage where
  | uninitialized
  | resetting
  | initializing
  | idle
  | drawing
  | refreshing
  | sleeping
  deriving DecidableEq, Repr

/-- The step labels, the values of STEP (R22, 42_state_machine.md). -/
inductive Label where
  | none
  | su0
  | rs1 | rs2 | rs3 | rs4 | rs5 | rs6
  | in1 | in2 | in3 | in4 | in5 | in6 | in7 | in8 | in9 | in10 | in11 | in12 | in13 | in14
  | dr1 | dr2 | dr3 | dr4 | dr5 | dr6 | dr7
  | rf1 | rf2
  | sl1 | sl2
  deriving DecidableEq, Repr

/-- The events of the output trace (R11). -/
inductive Event where
  | rst (level : Bool)
  | mode (m : BusMode)
  | sel (on : Bool)
  | xfer (b : Byte)
  | log (w : Site)
  deriving DecidableEq, Repr

/-- An event with the model time it was emitted at (92_eei_decisions.md D28). -/
structure Stamped where
  time : Nat
  event : Event
  deriving DecidableEq, Repr

/-- The sequencer position: STATE, STEP and SEQ_BUSY (R21 to R23). -/
structure Seq where
  stage : Stage
  label : Label
  busy : Bool
  deriving DecidableEq, Repr

/-- Control and status registers (R26 to R30). -/
structure Ctl where
  /-- UPDATE_COUNT (R26). -/
  updateCount : BitVec 32
  /-- FULL_UPDATE_EVERY (R27): stored, never consulted. -/
  fullUpdateEvery : BitVec 32
  /-- CFG_HAS_RESET (R28). -/
  hasReset : Bool
  /-- CFG_HAS_BUSY (R28). -/
  hasBusy : Bool
  /-- TIMEOUT_SEEN (R29), bit `w` for wait site `w`. -/
  timeoutSeen : BitVec 4
  /-- WAIT_OK (R30). -/
  waitOk : Bool
  deriving DecidableEq, Repr

/-- Output latches and pulses (R31 to R35, R232). -/
structure Pins where
  /-- RST_OUT (R31). -/
  rstOut : Bool
  /-- DC_OUT (R32), an electrical level. -/
  dcOut : Bool
  /-- CS_OUT (R33), an electrical level. -/
  csOut : Bool
  /-- TX_BYTE (R34). -/
  txByte : Byte
  /-- TX_VALID (R34). -/
  txValid : Bool
  /-- LOG_SITE (R35). -/
  logSite : Site
  /-- The `log_timeout` pulse (R35). -/
  logTimeout : Bool
  /-- The `setup_ack` pulse (R232). -/
  setupAck : Bool
  /-- The `update_ack` pulse (R232). -/
  updateAck : Bool
  /-- The `sleep_ack` pulse (R232). -/
  sleepAck : Bool
  /-- The `px_ack` pulse (R232). -/
  pxAck : Bool
  deriving DecidableEq, Repr

/-- Datapath registers (R36 to R38). -/
structure Datapath where
  /-- ROW_CNT (R36). -/
  rowCnt : BitVec 9
  /-- COL_CNT (R36). -/
  colCnt : BitVec 5
  /-- FB_ADDR (R36). -/
  fbAddr : FbAddr
  /-- DELAY_CNT (R37). -/
  delayCnt : BitVec 8
  /-- TICK_DIV (R37), of no stated width. -/
  tickDiv : Nat
  /-- ELAPSED (R38). -/
  elapsed : BitVec 15
  deriving DecidableEq, Repr

/-- The `rst` port (R280, R283) as a step sees it: low throughout, high at the step's clock edge, or rising while the
step's sequencer instruction is in progress, after `k` of its micro-operations. Log entry 9. -/
inductive RstIn where
  | low
  | high
  | during (k : Nat)
  deriving DecidableEq, Repr

/-- The input ports of R20 at one step: requests and operands, the read address, `rst`. -/
structure Inputs where
  request : Request
  fbRaddr : FbAddr
  rst : RstIn
  deriving DecidableEq, Repr

/-- The environment (R6): the inputs of this step, those of the later steps (the last stay when the list ends), the levels
the next busy samples draw (R214), and the levels of port `busy_in` at the next clock edges that clock the synchronizer
(R39). Log entries 3, 6 and 8. -/
structure Env where
  inputs : Inputs
  script : List Inputs
  busyIn : List Bool
  lineIn : List Bool
  deriving DecidableEq, Repr

/-- The model's own counters that number the free values: busy samples taken, clock edges of the synchronizer, unspecified
read-port bytes, block resets. -/
structure Draws where
  sampleIx : Nat
  edgeIx : Nat
  portIx : Nat
  epoch : Nat
  deriving DecidableEq, Repr

/-- The whole state of the block, its environment and its output trace. -/
structure State where
  params : Params
  seq : Seq
  /-- FB (R24) as the list of the bytes that have a value; an absent byte has none (R25). -/
  fb : List Host.Cell
  ctl : Ctl
  pins : Pins
  dp : Datapath
  /-- BUSY_SYNC (R39), first stage first; the last is BUSY_Q. -/
  busySync : List Bool
  /-- The answer on port `fb_rdata` (R20, R124). -/
  fbRdata : Byte
  /-- Model time in milliseconds (R221). -/
  time : Nat
  /-- The events emitted so far, first one first (R11). -/
  trace : List Stamped
  env : Env
  draws : Draws
  deriving DecidableEq, Repr

/-- Why a step stops with a fault. -/
inductive Fault where
  /-- Raised by the step alone, never by an instruction: SEQ_BUSY = 1 while STEP = NONE, which no rule describes and no
  run from reset reaches. Safe: the machine stops where the spec says nothing (log entry 18). -/
  | noSequenceStep
  deriving DecidableEq, Repr

/-- Why a step is refused. -/
inductive Refusal where
  /-- Raised by an arm of exec for an instruction without a meaning. No arm does. Safe: nothing runs. -/
  | notModelled (mnemonic : String)
  deriving DecidableEq, Repr

/-! ### Reset values (R42) -/

/-- The output latches after reset (R42). -/
def Pins.atReset (p : Params) : Pins where
  rstOut := true
  dcOut := !p.dcCmdLevel
  csOut := !p.csActiveLevel
  txByte := 0x00#8
  txValid := false
  logSite := 0#2
  logTimeout := false
  setupAck := false
  updateAck := false
  sleepAck := false
  pxAck := false

/-- The control registers after reset (R42). -/
def Ctl.atReset : Ctl where
  updateCount := 0#32
  fullUpdateEvery := 0#32
  hasReset := false
  hasBusy := false
  timeoutSeen := 0#4
  waitOk := true

/-- The datapath registers after reset (R42). -/
def Datapath.atReset : Datapath where
  rowCnt := 0#9
  colCnt := 0#5
  fbAddr := 0#13
  delayCnt := 0#8
  tickDiv := 0
  elapsed := 0#15

/-- Uninitialized, no sequence (R42, R43). -/
def Seq.atReset : Seq where
  stage := .uninitialized
  label := .none
  busy := false

/-- No request, address 0, `rst` released. DESIGN CHOICE, log entry 8: the spec gives inputs no value. -/
def Inputs.quiet : Inputs where
  request := Request.none
  fbRaddr := 0#13
  rst := .low

/-- An environment that asks for nothing and whose busy line has free values. DESIGN CHOICE, log entries 3, 6 and 8. -/
def Env.quiet : Env where
  inputs := Inputs.quiet
  script := []
  busyIn := []
  lineIn := []

/-- The machine right after block reset on a board with parameters `p`, at the start of a run: R42's table, the trace
empty (R281), `rst` released (R282). -/
def State.resetWith (p : Params) : State where
  params := p
  seq := Seq.atReset
  fb := []
  ctl := Ctl.atReset
  pins := Pins.atReset p
  dp := Datapath.atReset
  busySync := List.replicate p.syncStages true
  fbRdata := 0x00#8
  time := 0
  trace := []
  env := Env.quiet
  draws := ⟨0, 0, 0, 0⟩

/-- The machine right after reset, with the open parameters at the spec's suggested defaults (log entry 1). -/
def State.reset : State := State.resetWith Params.suggested

end Sys2Proof.Machine
end

