-- ==== Sys2Proof/Machine/Operands.lean ====
section
/-! DEFINITION. Operand forms: pixel coordinates, byte index and mask (20_memory.md R61, R62, R71), the address of a
payload position (R66, R126), 16-bit fields (R67: `fieldBytes` in Decode). -/

namespace Sys2Proof.Machine

/-- The bounds test on the signed coordinates (R71, R121). -/
def inBounds (x y : Coord) : Bool :=
  decide (0 ≤ x.toInt) && decide (x.toInt < Config.width) && decide (0 ≤ y.toInt) && decide (y.toInt < Config.height)

/-- Byte index `(x + y*width) / 8` (R61), of coordinates in bounds. -/
def pixelIndex (x y : Coord) : Nat := (x.toNat + y.toNat * Config.width) / 8

/-- Bit mask `0x80 >> (x mod 8)` (R61). -/
def pixelMask (x : Coord) : Byte := 0x80#8 >>> (x.toNat % 8)

/-- The byte with the pixel's bit set for on, cleared for off (R64, R120). -/
def paintByte (old : Byte) (x : Coord) (on : Bool) : Byte :=
  if on then old ||| pixelMask x else old &&& ~~~(pixelMask x)

/-- The FB address ROW_FETCH reads for output row `j` and byte `i` (R126). -/
def rowFetchAddr (j i : Nat) : Nat := (Config.height - 1 - j) * Config.stride + i

end Sys2Proof.Machine
end

