-- ==== Sys2Proof/Machine/Ops.lean ====
section
/-! DEFINITION. The named operations over memory, latches, time and trace; the timeout event, which is the block's one
exceptional event (60_exceptions.md R251, R259), and block reset (70_reset_and_hazards.md R280). -/

namespace Sys2Proof.Machine

/-! ### Memory (R24, R70, R72): sorted cells, an absent byte has no value -/

/-- The byte at address `a`, if it has a value. -/
def memRead : List Host.Cell → Nat → Option Byte
  | [], _ => none
  | (b, v) :: rest, a => if b = a then some v else memRead rest a

/-- Writes one byte, keeping the cells sorted. -/
def memWrite : List Host.Cell → Nat → Byte → List Host.Cell
  | [], a, v => [(a, v)]
  | (b, u) :: rest, a, v =>
    if a < b then (a, v) :: (b, u) :: rest
    else if a = b then (a, v) :: rest
    else (b, u) :: memWrite rest a v

/-- Every byte of FB at 0xFF (R123). -/
def memFilled : List Host.Cell := (List.range' 0 Config.fbBytes).map (fun a => (a, 0xFF#8))

/-- The canonical form: addresses strictly rising, each below FB_BYTES. No entry is left out for its value, since an
unlisted byte reads as no value. -/
def memWf (m : List Host.Cell) : Bool :=
  decide (m.Pairwise (fun c d => c.1 < d.1)) && m.all (fun c => decide (c.1 < Config.fbBytes))

/-- The byte a read of FB answers: the byte held, or a free value for a byte without one (R25, log entry 5). -/
def fbByte (s : State) (a : Nat) : Byte :=
  match memRead s.fb a with
  | some v => v
  | none => Config.unwrittenByte s.draws.epoch a

/-! ### Events and latches (R11, R31 to R35) -/

/-- `Emit(e)` on the trace (R11). -/
def emit (e : Event) (s : State) : State := { s with trace := s.trace ++ [⟨s.time, e⟩] }

/-- The level of `dc_out` for a mode (R11, R32). -/
def modeLevel (p : Params) : BusMode → Bool
  | .cmd => p.dcCmdLevel
  | .data => !p.dcCmdLevel

/-- The level of `cs_out` for selected or deselected (R11, R33). -/
def selLevel (p : Params) (on : Bool) : Bool := if on then p.csActiveLevel else !p.csActiveLevel

/-- `Emit(Rst(l))` (R31). -/
def driveRst (l : Bool) (s : State) : State := emit (.rst l) { s with pins.rstOut := l }

/-- `Emit(Mode(m))` (R32). -/
def setMode (m : BusMode) (s : State) : State := emit (.mode m) { s with pins.dcOut := modeLevel s.params m }

/-- `Emit(Sel(on))` (R33). -/
def setSel (on : Bool) (s : State) : State := emit (.sel on) { s with pins.csOut := selLevel s.params on }

/-- First half of `Emit(Xfer(b))`: the byte is offered, TX_BYTE <- b and TX_VALID <- 1 (R34). -/
def offerByte (b : Byte) (s : State) : State := { s with pins.txByte := b, pins.txValid := true }

/-- Second half of `Emit(Xfer(b))`: `tx_ready` is seen, TX_VALID <- 0, and the byte counts as transferred (R34, log
entries 13 and 16). -/
def takeByte (s : State) : State := emit (.xfer s.pins.txByte) { s with pins.txValid := false }

/-- ROW_FETCH (R126): the counters and the address of output row `j`, byte `i`, and the byte of FB offered unchanged. -/
def rowFetch (j i : Nat) (s : State) : State :=
  offerByte (fbByte s (rowFetchAddr j i))
    { s with
      dp.rowCnt := BitVec.ofNat 9 j
      dp.colCnt := BitVec.ofNat 5 i
      dp.fbAddr := BitVec.ofNat 13 (rowFetchAddr j i) }

/-! ### Time (R37, R220, R221) -/

/-- The start of `Delay(n)`: TICK_DIV is restarted, DELAY_CNT <- n (R220). -/
def startDelay (n : BitVec 8) (s : State) : State := { s with dp.delayCnt := n, dp.tickDiv := 0 }

/-- One millisecond passes: DELAY_CNT counts down, the prescaler is at the start of its next period (R220, log entry
11). -/
def tickMs (s : State) : State :=
  { s with time := s.time + 1, dp.delayCnt := s.dp.delayCnt - 1#8, dp.tickDiv := 0 }

/-! ### The busy line (R39, R214, R218) -/

/-- The bit the `k`-th sample from now draws: the environment's, or a free value after its end (R214, log entry 3). -/
def busyLine (s : State) (k : Nat) : Bool :=
  match s.env.busyIn[k]? with
  | some b => b
  | none => Config.busyLevel (s.draws.sampleIx + k)

/-- BUSY_SYNC at sample `n` of an `m`-stage chain, clocked up to the sample: BUSY_Q, the last stage, holds the `b` the sample
reads, the earlier stages levels of the line at later edges, of which nothing is known (R39, R214, R219, log entry 6). -/
def syncAfter (m n : Nat) (b : Bool) : List Bool := (List.range (m - 1)).map (Config.syncLevel n) ++ [b]

/-- `SampleBusy()` returns `b`, which is BUSY_Q at its clock edge (R214). -/
def takeSample (b : Bool) (s : State) : State :=
  { s with
    busySync := syncAfter s.params.syncStages s.draws.sampleIx b
    env.busyIn := s.env.busyIn.tail
    draws.sampleIx := s.draws.sampleIx + 1 }

/-- The level of `busy_in` at the `k`-th clock edge from now: the environment's, or a free value after its end (R39, log
entry 6). -/
def edgeLevel (s : State) (k : Nat) : Bool :=
  match s.env.lineIn[k]? with
  | some b => b
  | none => Config.lineLevel (s.draws.edgeIx + k)

/-- One clock edge of BUSY_SYNC (R39, R218): the first stage samples `busy_in`, every other stage takes the one before it. -/
def clockEdge (s : State) : State :=
  { s with
    busySync := (edgeLevel s 0 :: s.busySync).dropLast
    env.lineIn := s.env.lineIn.tail
    draws.edgeIx := s.draws.edgeIx + 1 }

/-- `n` clock edges of BUSY_SYNC. -/
def clockEdges : Nat → State → State
  | 0, s => s
  | n + 1, s => clockEdges n (clockEdge s)

/-- ELAPSED <- 0 (R210). -/
def clearElapsed (s : State) : State := { s with dp.elapsed := 0#15 }

/-- ELAPSED <- ELAPSED + POLL_MS (R210). -/
def addElapsed (s : State) : State :=
  { s with dp.elapsed := s.dp.elapsed + BitVec.ofNat 15 Config.pollMs }

/-! ### The frame buffer as a whole and by pixel -/

/-- FILL (R123): every byte 0xFF, FB_ADDR the counter's last value (R36, log entry 10). -/
def fillFb (s : State) : State :=
  { s with fb := memFilled, dp.fbAddr := BitVec.ofNat 13 (Config.fbBytes - 1) }

/-- The read-modify-write of one pixel's byte (R72, R120); no access at all out of bounds (R71, R121). -/
def writePixel (x y : Coord) (on : Bool) (s : State) : State :=
  if inBounds x y then
    { s with
      fb := memWrite s.fb (pixelIndex x y) (paintByte (fbByte s (pixelIndex x y)) x on)
      dp.fbAddr := BitVec.ofNat 13 (pixelIndex x y) }
  else s

/-- Where the read port answers with FB (R124, R233): Idle or Sleeping, no sequence, an address that exists. -/
def portValid (s : State) (a : FbAddr) : Bool :=
  (s.seq.stage == .idle || s.seq.stage == .sleeping) && !s.seq.busy && decide (a.toNat < Config.fbBytes)

/-- The read port's answer to address `a` (R124), a fresh free value outside its domain (R125, log entry 4). -/
def readPort (a : FbAddr) (s : State) : State :=
  if portValid s a then { s with fbRdata := fbByte s a.toNat }
  else { s with fbRdata := Config.portByte s.draws.portIx, draws.portIx := s.draws.portIx + 1 }

/-! ### The exceptional event and block reset -/

/-- A TIMEOUT at wait site `w`: TIMEOUT_SEEN[w] <- 1, LOG_SITE <- w, the `Log(w)` event and its pulse, "and nothing more"
(R216, R251, R259). The sequence goes on: there is no saved position and no return (R250, R260). -/
def takeTimeout (w : Site) (s : State) : State :=
  emit (.log w)
    { s with
      ctl.timeoutSeen := s.ctl.timeoutSeen ||| (1#4 <<< w.toNat)
      pins.logSite := w
      pins.logTimeout := true }

/-- Block reset (R280): every register takes its reset value, FB is unspecified again, events already emitted stay (R283).
The board's parameters, model time and the environment are not the block's to reset; `fb_rdata` is answered anew in
the same step. -/
def blockReset (s : State) : State :=
  { State.resetWith s.params with
    fbRdata := s.fbRdata
    time := s.time
    trace := s.trace
    env := s.env
    draws := { s.draws with epoch := s.draws.epoch + 1 } }

/-! ### Ports (R20) -/

/-- The encoding of STATE on port `state` (R21). -/
def stageCode : Stage → BitVec 3
  | .uninitialized => 0#3
  | .resetting => 1#3
  | .initializing => 2#3
  | .idle => 3#3
  | .drawing => 4#3
  | .refreshing => 5#3
  | .sleeping => 6#3

end Sys2Proof.Machine
end

