-- ==== Sys2Proof/Machine/Flags.lean ====
section
/-! DEFINITION. The flags (10_state.md R40): SEQ_BUSY and what it lets in (R231, R233), WAIT_OK, TIMEOUT_SEEN (in Ops), and
the one-cycle pulses (R35, R232). -/

namespace Sys2Proof.Machine

/-- The legality table of R233, for SEQ_BUSY = 0. -/
def legalIn : Stage → HostOp → Bool
  | .uninitialized, .setup => true
  | .idle, .update => true
  | .idle, .sleep => true
  | .idle, .setPixel => true
  | .sleeping, .setPixel => true
  | _, _ => false

/-- Whether the block accepts `op` at this clock edge: SEQ_BUSY = 0 and `rst` = 0 (R231), and the stage allows it (R233). -/
def accepts (s : State) (op : HostOp) : Bool :=
  !s.seq.busy && decide (s.env.inputs.rst ≠ .high) && legalIn s.seq.stage op

/-- WAIT_OK <- b (R30). -/
def setWaitOk (b : Bool) (s : State) : State := { s with ctl.waitOk := b }

/-- The acknowledge pulse of an accepted request (R232). -/
def raiseAck (op : HostOp) (s : State) : State :=
  match op with
  | .setup => { s with pins.setupAck := true }
  | .update => { s with pins.updateAck := true }
  | .sleep => { s with pins.sleepAck := true }
  | .setPixel => { s with pins.pxAck := true }

/-- The one-cycle pulses fall at the next step (R35, R232). -/
def clearPulses (s : State) : State :=
  { s with
    pins.logTimeout := false
    pins.setupAck := false
    pins.updateAck := false
    pins.sleepAck := false
    pins.pxAck := false }

/-- The output ports of R20. `rst_out`, `dc_out`, `cs_out` and the transport's are the latches. -/
structure Outputs where
  ready : Bool
  setupAck : Bool
  updateAck : Bool
  sleepAck : Bool
  pxAck : Bool
  fbRdata : Byte
  state : BitVec 3
  timeoutSeen : BitVec 4
  updateCount : BitVec 32
  logTimeout : Bool
  logSite : Site
  rstOut : Bool
  dcOut : Bool
  csOut : Bool
  txByte : Byte
  txValid : Bool
  deriving DecidableEq, Repr

/-- What the output ports show (R20, R23, R266): `ready` is the complement of SEQ_BUSY. -/
def outputs (s : State) : Outputs where
  ready := !s.seq.busy
  setupAck := s.pins.setupAck
  updateAck := s.pins.updateAck
  sleepAck := s.pins.sleepAck
  pxAck := s.pins.pxAck
  fbRdata := s.fbRdata
  state := stageCode s.seq.stage
  timeoutSeen := s.ctl.timeoutSeen
  updateCount := s.ctl.updateCount
  logTimeout := s.pins.logTimeout
  logSite := s.pins.logSite
  rstOut := s.pins.rstOut
  dcOut := s.pins.dcOut
  csOut := s.pins.csOut
  txByte := s.pins.txByte
  txValid := s.pins.txValid

end Sys2Proof.Machine
end

