-- ==== Sys2Proof/Machine/Micro.lean ====
section
/-! DEFINITION. Micro-operations: the single actions the sequencer's instructions are made of, in the order the pseudocode
writes them (41_protocol_encoder.md R143). An instruction runs its whole list; a block reset may cut the list anywhere
(70_reset_and_hazards.md R283). -/

namespace Sys2Proof.Machine

/-- One action of the sequencer. -/
inductive Micro where
  | rst (level : Bool)
  | mode (m : BusMode)
  | sel (on : Bool)
  | offer (b : Byte)
  | take
  | fetch (j i : Nat)
  | fill
  | startDelay (n : BitVec 8)
  | tick
  | sample (b : Bool)
  | clearElapsed
  | addElapsed
  | waitOk (b : Bool)
  | timeout (w : Site)
  deriving DecidableEq, Repr

/-- The effect of one action. -/
def runMicro : Micro → State → State
  | .rst l => driveRst l
  | .mode m => setMode m
  | .sel on => setSel on
  | .offer b => offerByte b
  | .take => takeByte
  | .fetch j i => rowFetch j i
  | .fill => fillFb
  | .startDelay n => startDelay n
  | .tick => tickMs
  | .sample b => takeSample b
  | .clearElapsed => clearElapsed
  | .addElapsed => addElapsed
  | .waitOk b => setWaitOk b
  | .timeout w => takeTimeout w

/-- The effect of a list of actions, first one first. -/
def runMicros : List Micro → State → State
  | [], s => s
  | m :: ms, s => runMicros ms (runMicro m s)

/-! ### The primitives' lists -/

/-- `Emit(Xfer(b))` (R34). -/
def xferMicros (b : Byte) : List Micro := [.offer b, .take]

/-- SEND_CMD (R140). -/
def cmdMicros (op : Byte) : List Micro := [.mode .cmd, .sel true] ++ xferMicros op ++ [.sel false]

/-- SEND_DATA (R141). -/
def dataMicros (b : Byte) : List Micro := [.mode .data, .sel true] ++ xferMicros b ++ [.sel false]

/-- The `Xfer` events of a block (R142): the bytes written out, or those ROW_FETCH reads, row by row (R184). -/
def blockXfers : BlockSrc → List Micro
  | .bytes bs => bs.flatMap xferMicros
  | .rowFetch =>
    (List.range Config.height).flatMap fun j =>
      (List.range Config.stride).flatMap fun i => [.fetch j i, .take]

/-- SEND_BLOCK (R142): mode once, select once, the bytes, deselect once. -/
def blockMicros (src : BlockSrc) : List Micro := [.mode .data, .sel true] ++ blockXfers src ++ [.sel false]

/-- DELAY (R220). -/
def delayMicros (n : BitVec 8) : List Micro := .startDelay n :: List.replicate n.toNat .tick

/-- RESET_PULSE (R173), RS1 to RS6. -/
def resetPulseMicros : List Micro :=
  [.rst true] ++ delayMicros Config.rstHighMs ++ [.rst false] ++ delayMicros Config.rstLowMs ++ [.rst true] ++
    delayMicros Config.rstHighMs

/-- The loop of WAIT_IDLE at site `w` (R210), entered with `el` in ELAPSED and `k` samples taken, `line` giving the bits the
samples draw. `fuel` bounds the samples; 201 are enough (R213). -/
def waitLoop (w : Site) (line : Nat → Bool) : Nat → Nat → Nat → List Micro
  | 0, _, _ => []
  | fuel + 1, k, el =>
    .sample (line k) ::
      if line k = false then delayMicros (BitVec.ofNat 8 Config.settleMs) ++ [.waitOk true]
      else if Config.timeoutMs ≤ el then [.waitOk false, .timeout w]
      else
        delayMicros (BitVec.ofNat 8 Config.pollMs) ++
          .addElapsed :: waitLoop w line fuel (k + 1) (el + Config.pollMs)

/-- WAIT_IDLE at site `w` (R210, R212) from state `s`. -/
def waitMicros (w : Site) (s : State) : List Micro :=
  if s.ctl.hasBusy then .clearElapsed :: waitLoop w (busyLine s) (Config.timeoutMs / Config.pollMs + 1) 0 0
  else [.waitOk true]

/-! ### The panel commands' lists (R145 to R153) -/

/-- A command frame and one data frame per parameter byte (R102). -/
def paramCmdMicros (op : Byte) (data : List Byte) : List Micro := cmdMicros op ++ data.flatMap dataMicros

/-- SWRESET (R145). -/
def swresetMicros : List Micro := paramCmdMicros Config.opSoftReset []
/-- DATA_ENTRY_MODE (R146). -/
def dataEntryModeMicros : List Micro := paramCmdMicros Config.opDataEntryMode [Config.entryModeByte]
/-- SET_X_RANGE (R147). -/
def setXRangeMicros : List Micro := paramCmdMicros Config.opSetXRange [Config.xStart, Config.xEnd]
/-- SET_Y_RANGE (R148): start before end, each low byte first (R104). -/
def setYRangeMicros : List Micro :=
  paramCmdMicros Config.opSetYRange (fieldBytes Config.yStart ++ fieldBytes Config.yEnd)
/-- SET_X_COUNTER (R149). -/
def setXCounterMicros (p : Params) : List Micro := paramCmdMicros p.opSetXCounter [Config.xStart]
/-- SET_Y_COUNTER (R150). -/
def setYCounterMicros (p : Params) : List Micro := paramCmdMicros p.opSetYCounter (fieldBytes Config.yCounter)
/-- WRITE_RAM (R151): the command frame, closed, then one block frame. -/
def writeRamMicros (p : Params) : List Micro := cmdMicros p.opWriteRam ++ blockMicros .rowFetch
/-- ACTIVATE (R152). -/
def activateMicros (p : Params) : List Micro := paramCmdMicros p.opActivate []
/-- DEEP_SLEEP (R153). -/
def deepSleepMicros (p : Params) : List Micro := paramCmdMicros p.opDeepSleep [Config.deepSleepByte]

/-- The actions of a sequencer instruction from state `s`. The host's operations are no lists of actions: they are done at
their acceptance edge. -/
def microsOf (i : Instr) (s : State) : List Micro :=
  match i with
  | .swreset => swresetMicros
  | .dataEntryMode => dataEntryModeMicros
  | .setXRange => setXRangeMicros
  | .setYRange => setYRangeMicros
  | .setXCounter => setXCounterMicros s.params
  | .setYCounter => setYCounterMicros s.params
  | .writeRam => writeRamMicros s.params
  | .activate => activateMicros s.params
  | .deepSleep => deepSleepMicros s.params
  | .setPixel _ _ _ => []
  | .update => []
  | .sleep => []
  | .setup _ _ _ => []
  | .fbRead _ => []
  | .fill => [.fill]
  | .resetPulse => resetPulseMicros
  | .sendCmd op => cmdMicros op
  | .sendData b => dataMicros b
  | .sendBlock src => blockMicros src
  | .waitIdle w => waitMicros w s
  | .delay n => delayMicros n

end Sys2Proof.Machine
end

