-- ==== Sys2Proof/Machine/BusyWait.lean ====
section
/-! DEFINITION. The busy-wait monitor and the delay (43_busy_wait.md): WAIT_IDLE, DELAY; the reset pulse made of delays
(42_state_machine.md R173). -/

namespace Sys2Proof.Machine

/-- WAIT_IDLE at site `w` (R210): a timeout is recorded and reported, and is no fault (R216, R251). -/
def execWaitIdle (w : Site) (s : State) : Host.Outcome State Fault Refusal := .next (runMicros (waitMicros w s) s)

/-- DELAY (R220). -/
def execDelay (n : BitVec 8) (s : State) : Host.Outcome State Fault Refusal := .next (runMicros (delayMicros n) s)

/-- RESET_PULSE (R173). -/
def execResetPulse (s : State) : Host.Outcome State Fault Refusal := .next (runMicros resetPulseMicros s)

end Sys2Proof.Machine
end

