-- ==== Sys2Proof/Machine/Encoder.lean ====
section
/-! DEFINITION. The protocol encoder (41_protocol_encoder.md): the three send primitives and the nine panel commands. -/

namespace Sys2Proof.Machine

/-- SEND_CMD (R140). -/
def execSendCmd (op : Byte) (s : State) : Host.Outcome State Fault Refusal := .next (runMicros (cmdMicros op) s)

/-- SEND_DATA (R141). -/
def execSendData (b : Byte) (s : State) : Host.Outcome State Fault Refusal := .next (runMicros (dataMicros b) s)

/-- SEND_BLOCK (R142). -/
def execSendBlock (src : BlockSrc) (s : State) : Host.Outcome State Fault Refusal := .next (runMicros (blockMicros src) s)

/-- SWRESET (R145). -/
def execSwreset (s : State) : Host.Outcome State Fault Refusal := .next (runMicros swresetMicros s)

/-- DATA_ENTRY_MODE (R146). -/
def execDataEntryMode (s : State) : Host.Outcome State Fault Refusal := .next (runMicros dataEntryModeMicros s)

/-- SET_X_RANGE (R147). -/
def execSetXRange (s : State) : Host.Outcome State Fault Refusal := .next (runMicros setXRangeMicros s)

/-- SET_Y_RANGE (R148). -/
def execSetYRange (s : State) : Host.Outcome State Fault Refusal := .next (runMicros setYRangeMicros s)

/-- SET_X_COUNTER (R149). -/
def execSetXCounter (s : State) : Host.Outcome State Fault Refusal := .next (runMicros (setXCounterMicros s.params) s)

/-- SET_Y_COUNTER (R150). -/
def execSetYCounter (s : State) : Host.Outcome State Fault Refusal := .next (runMicros (setYCounterMicros s.params) s)

/-- WRITE_RAM (R151). -/
def execWriteRam (s : State) : Host.Outcome State Fault Refusal := .next (runMicros (writeRamMicros s.params) s)

/-- ACTIVATE (R152). -/
def execActivate (s : State) : Host.Outcome State Fault Refusal := .next (runMicros (activateMicros s.params) s)

/-- DEEP_SLEEP (R153). -/
def execDeepSleep (s : State) : Host.Outcome State Fault Refusal := .next (runMicros (deepSleepMicros s.params) s)

end Sys2Proof.Machine
end

