-- ==== Sys2Proof/Machine/PixelBuffer.lean ====
section
/-! DEFINITION. The frame-buffer family (40_pixel_buffer.md): SET_PIXEL, FB_READ, FILL. -/

namespace Sys2Proof.Machine

/-- SET_PIXEL (R120): accepted in Idle and Sleeping (R233), then the pixel is written, or nothing out of bounds (R121), and
`px_ack` pulses either way. A request that is not accepted has no effect (R234). -/
def execSetPixel (x y : Coord) (on : Bool) (s : State) : Host.Outcome State Fault Refusal :=
  if accepts s .setPixel then .next (raiseAck .setPixel (writePixel x y on s)) else .next s

/-- FB_READ (R124, R125): the read port answers the address. -/
def execFbRead (a : FbAddr) (s : State) : Host.Outcome State Fault Refusal := .next (readPort a s)

/-- FILL (R123). -/
def execFill (s : State) : Host.Outcome State Fault Refusal := .next (runMicros [.fill] s)

end Sys2Proof.Machine
end

