-- ==== Sys2Proof/Machine/Sequences.lean ====
section
/-! DEFINITION. The host operations that start a sequence (42_state_machine.md): SETUP, UPDATE, SLEEP. Their meaning is the
acceptance edge (R171, R181, R190), which sets SEQ_BUSY and the sequencer position; the steps of the sequence are the
instructions the sequencer runs from there (Machine/Sequencer.lean). -/

namespace Sys2Proof.Machine

/-- The stage after SU0 (R172): the reset pulse if a reset line is configured, else straight to Initializing. -/
def afterSu0 (hasReset : Bool) : Seq :=
  if hasReset then ⟨.resetting, .rs1, true⟩ else ⟨.initializing, .in1, true⟩

/-- Step SU0 (R171): the configuration is latched, UPDATE_COUNT <- 0, FILL; then the path of R172. -/
def startSetup (hasReset hasBusy : Bool) (fullUpdateEvery : BitVec 32) (s : State) : State :=
  fillFb
    { s with
      ctl.hasReset := hasReset
      ctl.hasBusy := hasBusy
      ctl.fullUpdateEvery := fullUpdateEvery
      ctl.updateCount := 0#32
      seq := afterSu0 hasReset }

/-- The acceptance of UPDATE (R181). -/
def startUpdate (s : State) : State :=
  { s with ctl.updateCount := s.ctl.updateCount + 1#32, seq := ⟨.drawing, .dr1, true⟩ }

/-- The acceptance of SLEEP (R190). -/
def startSleep (s : State) : State := { s with seq := ⟨.sleeping, .sl1, true⟩ }

/-- SETUP (R170). Not accepted outside Uninitialized: no effect (R234). -/
def execSetup (hasReset hasBusy : Bool) (fullUpdateEvery : BitVec 32) (s : State) : Host.Outcome State Fault Refusal :=
  if accepts s .setup then .next (raiseAck .setup (startSetup hasReset hasBusy fullUpdateEvery s)) else .next s

/-- UPDATE (R180). Not accepted outside Idle: no effect (R234). -/
def execUpdate (s : State) : Host.Outcome State Fault Refusal :=
  if accepts s .update then .next (raiseAck .update (startUpdate s)) else .next s

/-- SLEEP (R190). Not accepted outside Idle: no effect (R234). -/
def execSleep (s : State) : Host.Outcome State Fault Refusal :=
  if accepts s .sleep then .next (raiseAck .sleep (startSleep s)) else .next s

end Sys2Proof.Machine
end

