-- ==== Sys2Proof/Machine/Dispatch.lean ====
section
/-! DEFINITION. One arm per instruction, each one call of its meaning. -/

namespace Sys2Proof.Machine

def exec (i : Instr) (s : State) : Host.Outcome State Fault Refusal :=
  match i with
  | .swreset => Sys2Proof.Machine.execSwreset s
  | .dataEntryMode => Sys2Proof.Machine.execDataEntryMode s
  | .setXRange => Sys2Proof.Machine.execSetXRange s
  | .setYRange => Sys2Proof.Machine.execSetYRange s
  | .setXCounter => Sys2Proof.Machine.execSetXCounter s
  | .setYCounter => Sys2Proof.Machine.execSetYCounter s
  | .writeRam => Sys2Proof.Machine.execWriteRam s
  | .activate => Sys2Proof.Machine.execActivate s
  | .deepSleep => Sys2Proof.Machine.execDeepSleep s
  | .setPixel x y on => Sys2Proof.Machine.execSetPixel x y on s
  | .update => Sys2Proof.Machine.execUpdate s
  | .sleep => Sys2Proof.Machine.execSleep s
  | .setup hasReset hasBusy n => Sys2Proof.Machine.execSetup hasReset hasBusy n s
  | .fbRead a => Sys2Proof.Machine.execFbRead a s
  | .fill => Sys2Proof.Machine.execFill s
  | .resetPulse => Sys2Proof.Machine.execResetPulse s
  | .sendCmd op => Sys2Proof.Machine.execSendCmd op s
  | .sendData b => Sys2Proof.Machine.execSendData b s
  | .sendBlock src => Sys2Proof.Machine.execSendBlock src s
  | .waitIdle w => Sys2Proof.Machine.execWaitIdle w s
  | .delay n => Sys2Proof.Machine.execDelay n s

end Sys2Proof.Machine
end

