-- ==== Sys2Proof/Machine/Sequencer.lean ====
section
/-! DEFINITION. What a step fetches and what it does around exec: the instruction at each step label and the position after
it (42_state_machine.md), the arbitration of requests (44_host_interface.md R235), the cut by `rst` (70_reset_and_hazards.md
R283), the inputs of the next step, and where an encoded instruction is placed to be fetched. -/

namespace Sys2Proof.Machine

/-! ### The sequences (R171 to R174, R182 to R185, R190) -/

/-- What the sequencer does at a label: an instruction of the table, or the one action that is no instruction of its own,
a level on the reset line inside RESET_PULSE (R173). -/
inductive SeqAction where
  | instr (i : Instr)
  | drive (level : Bool)
  deriving DecidableEq, Repr

/-- The action that begins at a label. A panel command begins at its first label and takes the labels of its data bytes
with it, RESET_PULSE all of RS1 to RS6; at the inner labels stands the one primitive of that label. Log entry 7. -/
def labelAction : Label → Option SeqAction
  | .none => none
  | .su0 => some (.instr .fill)
  | .rs1 => some (.instr .resetPulse)
  | .rs2 => some (.instr (.delay Config.rstHighMs))
  | .rs3 => some (.drive false)
  | .rs4 => some (.instr (.delay Config.rstLowMs))
  | .rs5 => some (.drive true)
  | .rs6 => some (.instr (.delay Config.rstHighMs))
  | .in1 => some (.instr (.waitIdle 0#2))
  | .in2 => some (.instr .swreset)
  | .in3 => some (.instr (.waitIdle 1#2))
  | .in4 => some (.instr .dataEntryMode)
  | .in5 => some (.instr (.sendData 0x03#8))
  | .in6 => some (.instr .setXRange)
  | .in7 => some (.instr (.sendData 0x01#8))
  | .in8 => some (.instr (.sendData 0x13#8))
  | .in9 => some (.instr .setYRange)
  | .in10 => some (.instr (.sendData 0x00#8))
  | .in11 => some (.instr (.sendData 0x00#8))
  | .in12 => some (.instr (.sendData 0x28#8))
  | .in13 => some (.instr (.sendData 0x01#8))
  | .in14 => some (.instr (.waitIdle 2#2))
  | .dr1 => some (.instr .setXCounter)
  | .dr2 => some (.instr (.sendData 0x01#8))
  | .dr3 => some (.instr .setYCounter)
  | .dr4 => some (.instr (.sendData 0x27#8))
  | .dr5 => some (.instr (.sendData 0x01#8))
  | .dr6 => some (.instr .writeRam)
  | .dr7 => some (.instr (.sendBlock .rowFetch))
  | .rf1 => some (.instr .activate)
  | .rf2 => some (.instr (.waitIdle 3#2))
  | .sl1 => some (.instr .deepSleep)
  | .sl2 => some (.instr (.sendData 0x01#8))

/-- The end of SETUP (R176) and of UPDATE (R186): Idle, no sequence. -/
def seqIdle : Seq := ⟨.idle, .none, false⟩

/-- The end of SLEEP (R190): STATE stays Sleeping. -/
def seqAsleep : Seq := ⟨.sleeping, .none, false⟩

/-- The sequencer position after the action that begins at the position's label (R192). Within a stage only STEP moves;
no move looks at a wait's result (R193). -/
def seqAfter (hasReset : Bool) (q : Seq) : Seq :=
  match q.label with
  | .none => q
  | .su0 => afterSu0 hasReset
  | .rs1 => ⟨.initializing, .in1, q.busy⟩
  | .rs2 => { q with label := .rs3 }
  | .rs3 => { q with label := .rs4 }
  | .rs4 => { q with label := .rs5 }
  | .rs5 => { q with label := .rs6 }
  | .rs6 => ⟨.initializing, .in1, q.busy⟩
  | .in1 => { q with label := .in2 }
  | .in2 => { q with label := .in3 }
  | .in3 => { q with label := .in4 }
  | .in4 => { q with label := .in6 }
  | .in5 => { q with label := .in6 }
  | .in6 => { q with label := .in9 }
  | .in7 => { q with label := .in8 }
  | .in8 => { q with label := .in9 }
  | .in9 => { q with label := .in14 }
  | .in10 => { q with label := .in11 }
  | .in11 => { q with label := .in12 }
  | .in12 => { q with label := .in13 }
  | .in13 => { q with label := .in14 }
  | .in14 => seqIdle
  | .dr1 => { q with label := .dr3 }
  | .dr2 => { q with label := .dr3 }
  | .dr3 => { q with label := .dr6 }
  | .dr4 => { q with label := .dr5 }
  | .dr5 => { q with label := .dr6 }
  | .dr6 => ⟨.refreshing, .rf1, q.busy⟩
  | .dr7 => ⟨.refreshing, .rf1, q.busy⟩
  | .rf1 => { q with label := .rf2 }
  | .rf2 => seqIdle
  | .sl1 => seqAsleep
  | .sl2 => seqAsleep

/-- The sequencer moves on (R22). -/
def advanceSeq (s : State) : State := { s with seq := seqAfter s.ctl.hasReset s.seq }

/-- Runs an action whole. -/
def runAction (act : SeqAction) (s : State) : Host.Outcome State Fault Refusal :=
  match act with
  | .instr i => exec i s
  | .drive l => .next (driveRst l s)

/-- The micro-operations of an action. -/
def actionMicros (act : SeqAction) (s : State) : List Micro :=
  match act with
  | .instr i => microsOf i s
  | .drive l => [.rst l]

/-! ### Requests -/

/-- The request accepted at this edge, if any (R231, R233, R235). -/
def arbitrate (s : State) : Option Instr := selectRequest (accepts s) s.env.inputs.request

/-! ### The step's parts -/

/-- A function of the next state on an outcome. -/
def mapNext (f : State → State) : Host.Outcome State Fault Refusal → Host.Outcome State Fault Refusal
  | .next t => .next (f t)
  | .fault r => .fault r
  | .refused r => .refused r

/-- The inputs of the next step: the environment's next, or the same levels again. -/
def nextInputs (s : State) : State :=
  match s.env.script with
  | [] => s
  | i :: rest => { s with env.inputs := i, env.script := rest }

/-- The clock edges a host operation's step represents: one for an operation done in the cycle it is accepted (R120, R124,
R181, R190), else SYNC_STAGES, the last of an open number (R303): SETUP's FILL alone takes 5624 (R218). Log entry 6. -/
def edgesOf (i : Instr) (p : Params) : Nat :=
  match i with
  | .setPixel _ _ _ | .update | .sleep | .fbRead _ => 1
  | .setup _ _ _ | .fill | .resetPulse | .sendCmd _ | .sendData _ | .sendBlock _ | .waitIdle _ | .delay _ | .swreset
  | .dataEntryMode | .setXRange | .setYRange | .setXCounter | .setYCounter | .writeRam | .activate | .deepSleep =>
    p.syncStages

/-- The end of every step: the read port answers the address of this step with FB as the step leaves it, which is FB_READ
of that address (R93, R124), the `n` clock edges of the step clock the synchronizer (R39, R218), and the inputs move on.
Log entries 6 and 14. -/
def endStep (n : Nat) (s : State) : State := nextInputs (clockEdges n (readPort s.env.inputs.fbRaddr s))

/-- A step in which a sequence is in progress: the action at STEP, whole, then the next position. It takes an open number of
clock edges (R303), of which the last SYNC_STAGES fill the synchronizer. -/
def sequencerStep (s : State) : Host.Outcome State Fault Refusal :=
  match labelAction s.seq.label with
  | none => .fault .noSequenceStep
  | some act => mapNext (fun t => endStep s.params.syncStages (advanceSeq t)) (runAction act s)

/-- A step without a sequence: the accepted request, or no request, when only the read port acts (R91, 0b0000). -/
def hostStep (s : State) : Host.Outcome State Fault Refusal :=
  match arbitrate s with
  | some i => mapNext (endStep (edgesOf i s.params)) (exec i s)
  | none => .next (endStep 1 s)

/-- A step whose `rst` is low. -/
def runStep (s : State) : Host.Outcome State Fault Refusal :=
  if s.seq.busy then sequencerStep (clearPulses s) else hostStep (clearPulses s)

/-- A step whose `rst` is high at its edge: block reset, whatever else is asked (R258 (c), R280). The synchronizer is reset
at that edge, not clocked. -/
def resetStep (s : State) : Host.Outcome State Fault Refusal := .next (endStep 0 (blockReset s))

/-- A step in which `rst` rises after `k` micro-operations of the action in progress: those stand, the rest never happen,
and the block is reset (R283). Without a sequence there is nothing to cut, the step is over at its edge. -/
def cutStep (k : Nat) (s : State) : Host.Outcome State Fault Refusal :=
  if s.seq.busy then
    match labelAction s.seq.label with
    | none => resetStep s
    | some act =>
      .next (endStep 0 (blockReset (runMicros ((actionMicros act (clearPulses s)).take k) (clearPulses s))))
  else runStep s

/-- The instruction a step with `rst` low fetches: the one at STEP while a sequence is in progress, else the accepted
request, else the read port's FB_READ; none at the two levels inside RESET_PULSE and where no rule gives a step. -/
def fetch (s : State) : Option Instr :=
  if s.seq.busy then
    match labelAction s.seq.label with
    | some (.instr i) => some i
    | _ => none
  else
    match arbitrate s with
    | some i => some i
    | none => some (.fbRead s.env.inputs.fbRaddr)

/-! ### Placing an instruction where the next step fetches it -/

/-- The label a panel command begins at (R145 to R153) and its stage. -/
def commandSeat : Instr → Option (Stage × Label)
  | .swreset => some (.initializing, .in2)
  | .dataEntryMode => some (.initializing, .in4)
  | .setXRange => some (.initializing, .in6)
  | .setYRange => some (.initializing, .in9)
  | .setXCounter => some (.drawing, .dr1)
  | .setYCounter => some (.drawing, .dr3)
  | .writeRam => some (.drawing, .dr6)
  | .activate => some (.refreshing, .rf1)
  | .deepSleep => some (.sleeping, .sl1)
  | _ => none

/-- The stage in which a request vector's operation is accepted: Uninitialized for SETUP alone, else Idle (R233). -/
def requestStage (r : Request) : Stage :=
  match selectRequest (fun _ => true) r with
  | some (.setup _ _ _) => .uninitialized
  | _ => .idle

/-- The state with a code placed where the next step fetches it, `rst` low: a request on the ports of a block that can
accept it, an address on the read port of an idle block, an opcode at the step that emits it. Log entry 20. -/
def placeCode (c : Code) (s : State) : State :=
  match c with
  | .request r =>
    { s with seq := ⟨requestStage r, .none, false⟩, env.inputs.request := r, env.inputs.rst := .low }
  | .port a =>
    { s with
      seq := ⟨.idle, .none, false⟩
      env.inputs.request := Request.none
      env.inputs.fbRaddr := a
      env.inputs.rst := .low }
  | .opcode op =>
    match (rowOfOpcode Params.suggested op).bind (fun r => commandSeat r.instr) with
    | some (stage, label) => { s with seq := ⟨stage, label, true⟩, env.inputs.rst := .low }
    | none => s

end Sys2Proof.Machine
end

