-- ==== Sys2Proof/Machine/Step.lean ====
section
/-! DEFINITION. One step of the block: a block reset, one instruction of the sequence in progress, one accepted request, or
only the read port. -/

namespace Sys2Proof.Machine

/-- One step. -/
def step (s : State) : Host.Outcome State Fault Refusal :=
  match s.env.inputs.rst with
  | .high => resetStep s
  | .low => runStep s
  | .during k => cutStep k s

/-- `s` with the instruction whose table bits are `w` placed where the next step fetches it; `s` itself where the bits are
no code. -/
def State.withFetchWord (s : State) (nbits w : Nat) : State :=
  match codeOfTable nbits w with
  | some c => placeCode c s
  | none => s

end Sys2Proof.Machine
end

