-- ==== Sys2Proof/Safety.lean ====
section
/-! DEFINITION. The terms the claims use: bus frames as event lists (30_encoding.md R95 to R97), the frame payload in
transmission order (20_memory.md R66), what a reader of the trace sees (R98), the invariant of the block's states, and
runs the environment does not reset. -/

namespace Sys2Proof.Machine

/-! ### Bus frames -/

/-- A command frame (R95). -/
def cmdFrame (op : Byte) : List Event := [.mode .cmd, .sel true, .xfer op, .sel false]

/-- A data frame (R96). -/
def dataFrame (b : Byte) : List Event := [.mode .data, .sel true, .xfer b, .sel false]

/-- A block frame (R97). -/
def blockFrame (bs : List Byte) : List Event := [.mode .data, .sel true] ++ bs.map .xfer ++ [.sel false]

/-- Events all emitted at model time `t`. -/
def stampAll (t : Nat) (es : List Event) : List Stamped := es.map fun e => ⟨t, e⟩

/-- The FB address sent at payload position `p` (R66). -/
def payloadAddr (p : Nat) : Nat := (295 - p / 19) * 19 + p % 19

/-- The frame payload in transmission order (R66). -/
def framePayload (s : State) : List Byte := (List.range' 0 Config.fbBytes).map fun p => fbByte s (payloadAddr p)

/-- The bus events of INIT (R174), the waits left out. -/
def initFrames : List Event :=
  cmdFrame 0x12#8 ++ cmdFrame 0x11#8 ++ dataFrame 0x03#8 ++ cmdFrame 0x44#8 ++ dataFrame 0x01#8 ++ dataFrame 0x13#8 ++
    cmdFrame 0x45#8 ++ dataFrame 0x00#8 ++ dataFrame 0x00#8 ++ dataFrame 0x28#8 ++ dataFrame 0x01#8

/-- The bus events of an UPDATE (R182, R184, R185), the wait left out. -/
def updateFrames (p : Params) (payload : List Byte) : List Event :=
  cmdFrame p.opSetXCounter ++ dataFrame 0x01#8 ++ cmdFrame p.opSetYCounter ++ dataFrame 0x27#8 ++ dataFrame 0x01#8 ++
    cmdFrame p.opWriteRam ++ blockFrame payload ++ cmdFrame p.opActivate

/-! ### Reading a trace -/

/-- Events on the bus: everything but the timeout report and the reset line. -/
def isBusEvent : Event → Bool
  | .mode _ => true
  | .sel _ => true
  | .xfer _ => true
  | .rst _ => false
  | .log _ => false

/-- Levels driven on the reset line. -/
def isRstEvent : Event → Bool
  | .rst _ => true
  | .mode _ => false
  | .sel _ => false
  | .xfer _ => false
  | .log _ => false

/-- The bus events of a trace, in order. -/
def busEvents (tr : List Stamped) : List Event := (tr.map Stamped.event).filter isBusEvent

/-- The events `t` has emitted since `s`. -/
def emittedSince (s t : State) : List Stamped := t.trace.drop s.trace.length

/-- Each transferred byte with "the most recent `Mode` event before it" (R98), `m` being the mode at the start. -/
def classify (m : BusMode) : List Event → List (BusMode × Byte)
  | [] => []
  | .mode m' :: es => classify m' es
  | .xfer b :: es => (m, b) :: classify m es
  | .sel _ :: es => classify m es
  | .rst _ :: es => classify m es
  | .log _ :: es => classify m es

/-- Whole frames and nothing else: the mode is set while deselected, bytes go while selected, the device is deselected
at the end (R95 to R97, R297). `sel` says whether the device is selected at the start. -/
def framed : Bool → List Event → Bool
  | sel, [] => !sel
  | sel, .mode _ :: es => !sel && framed sel es
  | sel, .sel on :: es => (sel != on) && framed on es
  | sel, .xfer _ :: es => sel && framed sel es
  | sel, .rst _ :: es => !sel && framed sel es
  | sel, .log _ :: es => !sel && framed sel es

/-- What is emitted as one piece: a command frame with one of the nine opcodes (R95, R108), a data frame (R96), a block frame
of at least one byte (R97), a level of the reset line, a timeout report. -/
def EventUnit (p : Params) (f : List Event) : Prop :=
  (∃ op ∈ p.opcodes, f = cmdFrame op) ∨ (∃ b, f = dataFrame b) ∨ (∃ bs, bs ≠ [] ∧ f = blockFrame bs) ∨
    (∃ l, f = [.rst l]) ∨ ∃ w, f = [.log w]

/-! ### Frames of instructions -/

/-- Nothing but the bus latches and the trace differs. -/
def OnlyBusDiffers (s t : State) : Prop :=
  t = { s with
    trace := t.trace
    pins.dcOut := t.pins.dcOut
    pins.csOut := t.pins.csOut
    pins.txByte := t.pins.txByte
    pins.txValid := t.pins.txValid }

/-- The latches a send primitive leaves (R144): the mode line at `m`, deselected, the last byte, nothing offered. -/
def BusRests (m : BusMode) (b : Byte) (t : State) : Prop :=
  t.pins.dcOut = modeLevel t.params m ∧ t.pins.csOut = !t.params.csActiveLevel ∧ t.pins.txByte = b ∧
    t.pins.txValid = false

/-- Nothing but what a wait writes differs: WAIT_OK, TIMEOUT_SEEN, the report, the counters, the synchronizer, time, the
trace and the samples drawn (R210). -/
def OnlyWaitDiffers (s t : State) : Prop :=
  t = { s with
    ctl.waitOk := t.ctl.waitOk
    ctl.timeoutSeen := t.ctl.timeoutSeen
    pins.logSite := t.pins.logSite
    pins.logTimeout := t.pins.logTimeout
    dp.elapsed := t.dp.elapsed
    dp.delayCnt := t.dp.delayCnt
    dp.tickDiv := t.dp.tickDiv
    busySync := t.busySync
    time := t.time
    trace := t.trace
    env.busyIn := t.env.busyIn
    draws.sampleIx := t.draws.sampleIx }

/-- BUSY_Q, the synchronizer's last stage (R39). -/
def busyQ (s : State) : Option Bool := s.busySync.getLast?

/-! ### The invariant -/

/-- The stage a label belongs to (R171 to R174, R182, R184, R185, R190). -/
def labelStage : Label → Stage
  | .none => .idle
  | .su0 => .uninitialized
  | .rs1 | .rs2 | .rs3 | .rs4 | .rs5 | .rs6 => .resetting
  | .in1 | .in2 | .in3 | .in4 | .in5 | .in6 | .in7 | .in8 | .in9 | .in10 | .in11 | .in12 | .in13 | .in14 => .initializing
  | .dr1 | .dr2 | .dr3 | .dr4 | .dr5 | .dr6 | .dr7 => .drawing
  | .rf1 | .rf2 => .refreshing
  | .sl1 | .sl2 => .sleeping

/-- STATE, STEP and SEQ_BUSY agree (R22, R23, R233): while a sequence runs, STEP is a label of the stage; else STEP is
NONE and the stage is one of the three without a sequence. -/
def SeqAgrees (s : State) : Prop :=
  if s.seq.busy then s.seq.label ≠ .none ∧ s.seq.stage = labelStage s.seq.label
  else s.seq.label = .none ∧ (s.seq.stage = .uninitialized ∨ s.seq.stage = .idle ∨ s.seq.stage = .sleeping)

/-- FB is in canonical form, has no value before SETUP's FILL, and every byte has one after it (R24, R25). -/
def FbAgrees (s : State) : Prop :=
  memWf s.fb = true ∧ (s.seq.stage = .uninitialized → s.fb = []) ∧
    (s.seq.stage ≠ .uninitialized → ∀ a < Config.fbBytes, (memRead s.fb a).isSome = true)

/-- Between instructions the device is deselected (R33), no byte is offered (R34), and the reset line is high but for the
low phase of the pulse (R31, R173). -/
def PinsRest (s : State) : Prop :=
  s.pins.csOut = (!s.params.csActiveLevel) ∧ s.pins.txValid = false ∧
    s.pins.rstOut = decide (s.seq.label ≠ .rs4 ∧ s.seq.label ≠ .rs5)

/-- The datapath registers are in the ranges of R36 to R38, and no delay is running between instructions. -/
def DatapathInRange (s : State) : Prop :=
  s.dp.rowCnt.toNat < 296 ∧ s.dp.colCnt.toNat < 19 ∧ s.dp.fbAddr.toNat < Config.fbBytes ∧ s.dp.elapsed.toNat ≤ 20000 ∧
    s.dp.delayCnt = 0#8

/-- No timeout is recorded before SETUP nor without a busy line (R171, R212, R251). -/
def TimeoutsAgree (s : State) : Prop :=
  (s.seq.stage = .uninitialized → s.ctl.timeoutSeen = 0#4) ∧ (s.ctl.hasBusy = false → s.ctl.timeoutSeen = 0#4)

/-- The synchronizer has SYNC_STAGES stages (R39). -/
def SyncAgrees (s : State) : Prop := 0 < s.params.syncStages ∧ s.busySync.length = s.params.syncStages

/-- What every state between two steps satisfies. -/
def Inv (s : State) : Prop :=
  SeqAgrees s ∧ FbAgrees s ∧ PinsRest s ∧ DatapathInRange s ∧ TimeoutsAgree s ∧ SyncAgrees s

/-! ### Runs -/

/-- `rst` stays low now and in every step the environment has scheduled; the requests are free. -/
def NoReset (s : State) : Prop := s.env.inputs.rst = .low ∧ ∀ i ∈ s.env.script, i.rst = .low

/-- The block can accept a request of the state machine: no sequence, no pixel write asked for (R235). -/
def FreeFor (stage : Stage) (s : State) : Prop :=
  s.seq = ⟨stage, .none, false⟩ ∧ s.env.inputs.request.pxWe = false

/-- The state without the two counts no rule consults, nor the port that loads one of them. -/
def withoutCounts (s : State) : State :=
  { s with
    ctl.updateCount := 0#32
    ctl.fullUpdateEvery := 0#32
    env.inputs.request.cfgFullUpdateEvery := 0#32
    env.script := s.env.script.map fun i => { i with request.cfgFullUpdateEvery := 0#32 } }

/-- `k` steps of the machine. -/
def runSteps (k : Nat) (s : State) : Host.Outcome State Fault Refusal := Host.Core.run Sys2Proof.core k s

end Sys2Proof.Machine
end

