-- ==== Sys2Proof/Certificates/Slice0/Obligations.lean ====
section
/-! DEFINITION. The statements for the provers. Each docstring names the rules of spec/ it formalises; where it rests on a
choice of the model it names the log entry. -/

open Sys2Proof
open Sys2Proof.Machine

/-! ### Encodings -/

/-- Words written out from the spec's encodings decode to the instructions they stand for: opcode bytes of R100, request
vectors of R91 in the table's numbering, a read address of R93. -/
def Obligations.SpecWordsDecode : Prop :=
  decodeTableWord 8 0b00010010 = some .swreset ∧ decodeTableWord 8 0b00010001 = some .dataEntryMode ∧
    decodeTableWord 8 0b01000100 = some .setXRange ∧ decodeTableWord 8 0b01000101 = some .setYRange ∧
    decodeTableWord 8 0b0001 = some (.setup false false 0#32) ∧ decodeTableWord 8 0b0010 = some .update ∧
    decodeTableWord 8 0b0100 = some .sleep ∧ decodeTableWord 8 0b1000 = some (.setPixel 0#16 0#16 false) ∧
    decodeTableWord 8 0b0110 = some .update ∧ decodeTableWord 8 0b0011 = some .update ∧
    decodeTableWord 8 0x46 = none ∧ decodeTableWord 16 0b1010111110111 = some (.fbRead 5623#13)

/-- Every instruction that has an encoding decodes back from it, with every operand, on every board whose nine opcodes are
pairwise distinct (R9). -/
def Obligations.EncodedInstructionDecodes : Prop :=
  ∀ (p : Params) (i : Instr) (c : Code), p.distinct → encode p i = some c → decode p c = .ok i

/-- A byte that decodes as a panel command is one of the nine opcodes, and is that command's own opcode (R100, R108). -/
def Obligations.OpcodeByteIsOneOfNine : Prop :=
  ∀ (p : Params) (op : Byte) (i : Instr),
    decode p (.opcode op) = .ok i → op ∈ p.opcodes ∧ encode p i = some (.opcode op)

/-- Reading the bus gives back the command that was sent and the bytes after it: the length follows from the opcode alone
(R100, R107, R109). -/
def Obligations.CommandBytesReadBack : Prop :=
  ∀ (p : Params) (i : Instr) (payload : List Byte) (rest : List (BusMode × Byte)),
    p.distinct → (rowOfInstr p i).isSome = true → payload.length = Config.fbBytes →
      readCommand p (commandBytes p payload i ++ rest) = .ok (i, rest)

/-- R67: a 16-bit field is sent as `v[7:0]` then `v[15:8]`, with the spec's three examples. -/
def Obligations.FieldLowByteFirst : Prop :=
  (∀ v : BitVec 16, fieldBytes v = [v.extractLsb' 0 8, v.extractLsb' 8 8]) ∧
    (∀ lo hi : Byte, fieldBytes (hi ++ lo) = [lo, hi]) ∧
    fieldBytes 0x0000#16 = [0x00#8, 0x00#8] ∧ fieldBytes 0x0128#16 = [0x28#8, 0x01#8] ∧
    fieldBytes 295#16 = [0x27#8, 0x01#8]

/-! ### Fetching and stepping -/

/-- With `rst` low, a step runs the instruction it fetches: while a sequence is in progress the one at STEP, after which
STEP moves on; else the accepted request; else FB_READ of the address on the port. Around it the pulses of the step
before fall, the read port answers, the step's clock edges clock the synchronizer and the inputs move on (log entries 6,
7, 14, 15). -/
def Obligations.StepRunsFetchedInstruction : Prop :=
  ∀ (s : State) (i : Instr), s.env.inputs.rst = .low → fetch s = some i →
    (s.seq.busy = true →
      step s = mapNext (fun t => endStep s.params.syncStages (advanceSeq t)) (exec i (clearPulses s))) ∧
    (s.seq.busy = false → arbitrate s = some i →
      step s = mapNext (endStep (edgesOf i s.params)) (exec i (clearPulses s))) ∧
    (s.seq.busy = false → arbitrate s = none →
      i = .fbRead s.env.inputs.fbRaddr ∧
        step s = mapNext (fun t => nextInputs (clockEdges 1 t)) (exec i (clearPulses s)))

/-- A word of the table, placed where the next step fetches it, is fetched as the instruction it decodes to (log entry
20). -/
def Obligations.PlacedWordIsFetched : Prop :=
  ∀ (s : State) (nbits w : Nat) (i : Instr),
    decodeTableWord nbits w = some i →
      fetch (s.withFetchWord nbits w) = some i ∧ (s.withFetchWord nbits w).env.inputs.rst = .low

/-- R235: of several requests at one edge the block accepts the first legal one in the order SET_PIXEL, UPDATE, SLEEP,
SETUP; none while a sequence is in progress or `rst` is high (R231). -/
def Obligations.RequestPriority : Prop :=
  ∀ s : State,
    (s.seq.busy = true ∨ s.env.inputs.rst = .high → arbitrate s = none) ∧
    (s.seq.busy = false → s.env.inputs.rst ≠ .high →
      (s.seq.stage = .idle → s.env.inputs.request.pxWe = true →
        arbitrate s = some (.setPixel s.env.inputs.request.pxX s.env.inputs.request.pxY s.env.inputs.request.pxOn)) ∧
      (s.seq.stage = .idle → s.env.inputs.request.pxWe = false → s.env.inputs.request.updateReq = true →
        arbitrate s = some .update) ∧
      (s.seq.stage = .idle → s.env.inputs.request.pxWe = false → s.env.inputs.request.updateReq = false →
        s.env.inputs.request.sleepReq = true → arbitrate s = some .sleep) ∧
      (s.seq.stage = .idle → s.env.inputs.request.pxWe = false → s.env.inputs.request.updateReq = false →
        s.env.inputs.request.sleepReq = false → arbitrate s = none) ∧
      (s.seq.stage = .sleeping → s.env.inputs.request.pxWe = true →
        arbitrate s = some (.setPixel s.env.inputs.request.pxX s.env.inputs.request.pxY s.env.inputs.request.pxOn)) ∧
      (s.seq.stage = .sleeping → s.env.inputs.request.pxWe = false → arbitrate s = none) ∧
      (s.seq.stage = .uninitialized → s.env.inputs.request.setupReq = true →
        arbitrate s =
          some (.setup s.env.inputs.request.cfgHasReset s.env.inputs.request.cfgHasBusy
            s.env.inputs.request.cfgFullUpdateEvery)) ∧
      (s.seq.stage = .uninitialized → s.env.inputs.request.setupReq = false → arbitrate s = none))

/-- R91 (0b0000), R282: with no sequence and no request that can be accepted, a step changes nothing but the pulses, the
read port's answer, the synchronizer, which takes one clock edge (R39, log entry 6), and the inputs. -/
def Obligations.IdleStepChangesNothing : Prop :=
  ∀ s : State, s.env.inputs.rst = .low → s.seq.busy = false → arbitrate s = none →
    ∃ t, step s = .next t ∧
      t = { clearPulses s with
        fbRdata := t.fbRdata
        busySync := t.busySync
        env := t.env
        draws.portIx := t.draws.portIx
        draws.edgeIx := s.draws.edgeIx + 1 } ∧
      t.busySync = (edgeLevel s 0 :: s.busySync).dropLast ∧ t.env.busyIn = s.env.busyIn ∧
      t.env.lineIn = s.env.lineIn.tail

/-! ### Host operations -/

/-- R171 and R172: SETUP accepted in Uninitialized latches the configuration, zeroes UPDATE_COUNT, fills every byte of FB
with 0xFF and takes the path the reset line decides; nothing else changes but FB_ADDR, the fill counter (log entry
10, the model's reading of R36), and `setup_ack`. -/
def Obligations.SetupAccepted : Prop :=
  ∀ (s : State) (hasReset hasBusy : Bool) (n : BitVec 32),
    s.seq.busy = false → s.env.inputs.rst ≠ .high → s.seq.stage = .uninitialized →
      ∃ t, exec (.setup hasReset hasBusy n) s = .next t ∧
        t.ctl = { s.ctl with hasReset := hasReset, hasBusy := hasBusy, fullUpdateEvery := n, updateCount := 0#32 } ∧
        (∀ a, memRead t.fb a = if a < 5624 then some 0xFF#8 else none) ∧
        t.seq = (if hasReset then ⟨.resetting, .rs1, true⟩ else ⟨.initializing, .in1, true⟩) ∧
        t.pins = { s.pins with setupAck := true } ∧
        t = { s with ctl := t.ctl, fb := t.fb, seq := t.seq, pins := t.pins, dp.fbAddr := t.dp.fbAddr }

/-- R181: UPDATE accepted in Idle: the counter goes up by one modulo 2^32, SEQ_BUSY <- 1, STATE <- Drawing, STEP <- DR1,
`update_ack`, and nothing else, FB included. -/
def Obligations.UpdateAccepted : Prop :=
  ∀ s : State, s.seq.busy = false → s.env.inputs.rst ≠ .high → s.seq.stage = .idle →
    ∃ t, exec .update s = .next t ∧
      t.ctl.updateCount.toNat = (s.ctl.updateCount.toNat + 1) % 2 ^ 32 ∧
      t = { s with
        ctl.updateCount := t.ctl.updateCount
        seq := ⟨.drawing, .dr1, true⟩
        pins.updateAck := true }

/-- R190: SLEEP accepted in Idle: SEQ_BUSY <- 1, STATE <- Sleeping, the sequence begins at SL1, `sleep_ack`, and nothing
else. -/
def Obligations.SleepAccepted : Prop :=
  ∀ s : State, s.seq.busy = false → s.env.inputs.rst ≠ .high → s.seq.stage = .idle →
    exec .sleep s = .next { s with seq := ⟨.sleeping, .sl1, true⟩, pins.sleepAck := true }

/-- R234: a request the block does not accept has no effect at all; which those are by R231 and R233. -/
def Obligations.RequestNotAccepted : Prop :=
  ∀ s : State,
    (∀ x y on, s.seq.busy = true ∨ s.env.inputs.rst = .high ∨ (s.seq.stage ≠ .idle ∧ s.seq.stage ≠ .sleeping) →
      exec (.setPixel x y on) s = .next s) ∧
    (s.seq.busy = true ∨ s.env.inputs.rst = .high ∨ s.seq.stage ≠ .idle → exec .update s = .next s) ∧
    (s.seq.busy = true ∨ s.env.inputs.rst = .high ∨ s.seq.stage ≠ .idle → exec .sleep s = .next s) ∧
    (∀ hr hb n, s.seq.busy = true ∨ s.env.inputs.rst = .high ∨ s.seq.stage ≠ .uninitialized →
      exec (.setup hr hb n) s = .next s)

/-- R120: SET_PIXEL is requested by `req` = 0b1000 with the operands on their ports and legal in Idle and Sleeping. Accepted
in bounds it reads byte `(x + y*152) / 8`, sets or clears the bit `0x80 >> (x mod 8)` and writes the byte back; every
other byte of FB reads as before, no time passes, no event is emitted, `px_ack` pulses, and nothing else changes but the
internal address register FB_ADDR. Out of bounds it returns at once. -/
def Obligations.SetPixelWritesOneBit : Prop :=
  (∀ (p : Params) (x y : Coord) (on : Bool), ∃ r, encode p (.setPixel x y on) = some (.request r) ∧
    requestVector r = 0b1000#4 ∧ r.pxX = x ∧ r.pxY = y ∧ r.pxOn = on) ∧
  (∀ st : Stage, legalIn st .setPixel = true ↔ st = .idle ∨ st = .sleeping) ∧
  ∀ (s : State) (x y : Coord) (on : Bool),
    s.seq.busy = false → s.env.inputs.rst ≠ .high → (s.seq.stage = .idle ∨ s.seq.stage = .sleeping) →
    (0 ≤ x.toInt ∧ x.toInt < 152 ∧ 0 ≤ y.toInt ∧ y.toInt < 296 →
      ∃ t, exec (.setPixel x y on) s = .next t ∧
        (∀ old, memRead s.fb ((x.toNat + y.toNat * 152) / 8) = some old →
          memRead t.fb ((x.toNat + y.toNat * 152) / 8) =
            some (if on then old ||| (0x80#8 >>> (x.toNat % 8)) else old &&& ~~~(0x80#8 >>> (x.toNat % 8)))) ∧
        (∀ a, a ≠ (x.toNat + y.toNat * 152) / 8 → memRead t.fb a = memRead s.fb a) ∧
        (x.toNat + y.toNat * 152) / 8 = y.toNat * 19 + x.toNat / 8 ∧ (x.toNat + y.toNat * 152) / 8 < 5624 ∧
        t = { s with fb := t.fb, dp.fbAddr := t.dp.fbAddr, pins.pxAck := true }) ∧
    (¬(0 ≤ x.toInt ∧ x.toInt < 152 ∧ 0 ≤ y.toInt ∧ y.toInt < 296) →
      exec (.setPixel x y on) s = .next { s with pins.pxAck := true })

/-- R121: out of bounds on any of the four sides, SET_PIXEL is acknowledged and does nothing: FB is not read and not
written, no flag, no event; the test is on the signed coordinates, not on the linear index, and its edges are where the
rule puts them. -/
def Obligations.SetPixelOutOfBounds : Prop :=
  (∀ (s : State) (x y : Coord) (on : Bool),
    s.seq.busy = false → s.env.inputs.rst ≠ .high → (s.seq.stage = .idle ∨ s.seq.stage = .sleeping) →
    (x.toInt < 0 ∨ 152 ≤ x.toInt ∨ y.toInt < 0 ∨ 296 ≤ y.toInt) →
      exec (.setPixel x y on) s = .next { s with pins.pxAck := true }) ∧
  (∀ x y : Coord, inBounds x y = true ↔ ¬(x.toInt < 0 ∨ 152 ≤ x.toInt ∨ y.toInt < 0 ∨ 296 ≤ y.toInt)) ∧
  (inBounds (-1) 0 = false ∧ inBounds 152 0 = false ∧ inBounds 0 (-1) = false ∧ inBounds 0 296 = false ∧
    inBounds 0 0 = true ∧ inBounds 151 295 = true ∧ inBounds 0x8000#16 0 = false ∧ inBounds 0x7FFF#16 0 = false ∧
    inBounds 0 0x8000#16 = false ∧ inBounds 0 0x7FFF#16 = false ∧ pixelIndex 152 0 < 5624)

/-- R127 (a), (d): after an accepted SET_PIXEL in bounds the pixel reads back the value written, and every other pixel of the
panel reads as before, where FB has its values. FB_ADDR is left at the byte's index (the model's reading of R36, log entry
10). -/
def Obligations.SetPixelReadsBack : Prop :=
  ∀ (s t : State) (x y : Coord) (on : Bool),
    (∀ a < 5624, (memRead s.fb a).isSome = true) → accepts s .setPixel = true → inBounds x y = true →
    exec (.setPixel x y on) s = .next t →
      (fbByte t (pixelIndex x y) &&& pixelMask x != 0#8) = on ∧ t.dp.fbAddr.toNat = pixelIndex x y ∧
      ∀ x' y' : Coord, inBounds x' y' = true → (x', y') ≠ (x, y) →
        (fbByte t (pixelIndex x' y') &&& pixelMask x' != 0#8) = (fbByte s (pixelIndex x' y') &&& pixelMask x' != 0#8)

/-- R124: in Idle or Sleeping without a sequence, FB_READ of an address below 5624 answers the byte of FB and changes nothing
else. -/
def Obligations.FbReadAnswersByte : Prop :=
  ∀ (s : State) (a : FbAddr) (v : Byte),
    (s.seq.stage = .idle ∨ s.seq.stage = .sleeping) → s.seq.busy = false → a.toNat < 5624 → memRead s.fb a.toNat = some v →
      exec (.fbRead a) s = .next { s with fbRdata := v }

/-- R125: outside that domain FB_READ completes, and nothing but the answer on the port changes (with the model's count of
free values, log entry 4); nothing is said of the answer. -/
def Obligations.FbReadOutsideDomain : Prop :=
  ∀ (s : State) (a : FbAddr),
    (s.seq.stage ≠ .idle ∧ s.seq.stage ≠ .sleeping) ∨ s.seq.busy = true ∨ 5624 ≤ a.toNat →
      ∃ t, exec (.fbRead a) s = .next t ∧ t = { s with fbRdata := t.fbRdata, draws.portIx := t.draws.portIx }

/-- R123: FILL writes 0xFF to every byte of FB, in no model time, with no event; FB_ADDR is its counter (R36). -/
def Obligations.FillWritesWhite : Prop :=
  ∀ s : State, ∃ t, exec .fill s = .next t ∧
    (∀ a, memRead t.fb a = if a < 5624 then some 0xFF#8 else none) ∧
    t = { s with fb := t.fb, dp.fbAddr := t.dp.fbAddr }

/-! ### The protocol encoder -/

/-- R140: SEND_CMD emits `Mode(C), Sel(1), Xfer(op), Sel(0)` in no model time and writes nothing but DC_OUT, CS_OUT and the
transport latches, which rest as R144 says. -/
def Obligations.SendCmdEmitsFrame : Prop :=
  ∀ (s : State) (op : Byte), ∃ t, exec (.sendCmd op) s = .next t ∧
    t.trace = s.trace ++ stampAll s.time [.mode .cmd, .sel true, .xfer op, .sel false] ∧
    OnlyBusDiffers s t ∧ BusRests .cmd op t

/-- R141: SEND_DATA emits `Mode(D), Sel(1), Xfer(b), Sel(0)` in no model time and writes nothing but the bus latches. -/
def Obligations.SendDataEmitsFrame : Prop :=
  ∀ (s : State) (b : Byte), ∃ t, exec (.sendData b) s = .next t ∧
    t.trace = s.trace ++ stampAll s.time [.mode .data, .sel true, .xfer b, .sel false] ∧
    OnlyBusDiffers s t ∧ BusRests .data b t

/-- R142: SEND_BLOCK of a byte sequence sets the mode once, selects once, transfers each byte in order, deselects once, and
writes nothing but the bus latches. -/
def Obligations.SendBlockEmitsFrame : Prop :=
  ∀ (s : State) (bs : List Byte) (last : Byte), ∃ t, exec (.sendBlock (.bytes (bs ++ [last]))) s = .next t ∧
    t.trace = s.trace ++
      stampAll s.time ([.mode .data, .sel true] ++ (bs ++ [last]).map Event.xfer ++ [.sel false]) ∧
    OnlyBusDiffers s t ∧ BusRests .data last t

/-- R66, R126, R184: the block DR7 sends is one frame of 5624 bytes, the byte at position `p = 19 j + i` being
FB[(295 - j) 19 + i], first FB[5605] and last FB[18], in no model time; FB is not written, and besides the bus latches only
the internal counters ROW_CNT, COL_CNT and FB_ADDR move. -/
def Obligations.FrameBlockReversesRows : Prop :=
  labelAction .dr7 = some (.instr (.sendBlock .rowFetch)) ∧
  ∀ s : State, ∃ t, exec (.sendBlock .rowFetch) s = .next t ∧
    t.trace = s.trace ++ stampAll s.time (blockFrame (framePayload s)) ∧
    (framePayload s).length = 5624 ∧
    (∀ j < 296, ∀ i < 19, (framePayload s)[19 * j + i]? = some (fbByte s ((295 - j) * 19 + i))) ∧
    (∀ a < 5624, (framePayload s)[(295 - a / 19) * 19 + a % 19]? = some (fbByte s a)) ∧
    (framePayload s)[0]? = some (fbByte s 5605) ∧ (framePayload s)[5623]? = some (fbByte s 18) ∧
    BusRests .data (fbByte s 18) t ∧
    OnlyBusDiffers
      { s with dp.rowCnt := t.dp.rowCnt, dp.colCnt := t.dp.colCnt, dp.fbAddr := t.dp.fbAddr } t

/-- R145 to R148: the four panel commands of INIT, each its command frame and one data frame per constant byte, in no model
time, writing nothing but the bus latches. SWRESET stands at IN2 between the waits W0 and W1, the others begin at IN4,
IN6 and IN9 and take the labels of their data bytes with them (log entry 7). -/
def Obligations.InitCommandsEmit : Prop :=
  (labelAction .in1 = some (.instr (.waitIdle 0#2)) ∧ labelAction .in2 = some (.instr .swreset) ∧
    labelAction .in3 = some (.instr (.waitIdle 1#2)) ∧ labelAction .in4 = some (.instr .dataEntryMode) ∧
    labelAction .in6 = some (.instr .setXRange) ∧ labelAction .in9 = some (.instr .setYRange)) ∧
  (∀ (hr : Bool) (q : Seq), (seqAfter hr { q with label := .in1 }).label = .in2 ∧
    (seqAfter hr { q with label := .in2 }).label = .in3 ∧ (seqAfter hr { q with label := .in3 }).label = .in4 ∧
    (seqAfter hr { q with label := .in4 }).label = .in6 ∧ (seqAfter hr { q with label := .in6 }).label = .in9 ∧
    (seqAfter hr { q with label := .in9 }).label = .in14) ∧
  ∀ s : State,
    (∃ t, exec .swreset s = .next t ∧ t.trace = s.trace ++ stampAll s.time (cmdFrame 0x12#8) ∧
      OnlyBusDiffers s t ∧ BusRests .cmd 0x12#8 t) ∧
    (∃ t, exec .dataEntryMode s = .next t ∧
      t.trace = s.trace ++ stampAll s.time (cmdFrame 0x11#8 ++ dataFrame 0x03#8) ∧
      OnlyBusDiffers s t ∧ BusRests .data 0x03#8 t) ∧
    (∃ t, exec .setXRange s = .next t ∧
      t.trace = s.trace ++ stampAll s.time (cmdFrame 0x44#8 ++ dataFrame 0x01#8 ++ dataFrame 0x13#8) ∧
      OnlyBusDiffers s t ∧ BusRests .data 0x13#8 t) ∧
    (∃ t, exec .setYRange s = .next t ∧
      t.trace = s.trace ++ stampAll s.time (cmdFrame 0x45#8 ++ dataFrame 0x00#8 ++ dataFrame 0x00#8 ++
        dataFrame 0x28#8 ++ dataFrame 0x01#8) ∧
      OnlyBusDiffers s t ∧ BusRests .data 0x01#8 t)

/-- R149, R150, R152, R153: the panel commands with an open opcode and constant bytes, whatever the opcode; at the labels
DR1, DR3, RF1, SL1, each taking the labels of its data bytes with it (log entry 7). -/
def Obligations.OpenOpcodeCommandsEmit : Prop :=
  (labelAction .dr1 = some (.instr .setXCounter) ∧ labelAction .dr3 = some (.instr .setYCounter) ∧
    labelAction .rf1 = some (.instr .activate) ∧ labelAction .sl1 = some (.instr .deepSleep)) ∧
  ∀ s : State,
    (∃ t, exec .setXCounter s = .next t ∧
      t.trace = s.trace ++ stampAll s.time (cmdFrame s.params.opSetXCounter ++ dataFrame 0x01#8) ∧
      OnlyBusDiffers s t ∧ BusRests .data 0x01#8 t) ∧
    (∃ t, exec .setYCounter s = .next t ∧
      t.trace = s.trace ++ stampAll s.time (cmdFrame s.params.opSetYCounter ++ dataFrame 0x27#8 ++ dataFrame 0x01#8) ∧
      OnlyBusDiffers s t ∧ BusRests .data 0x01#8 t) ∧
    (∃ t, exec .activate s = .next t ∧ t.trace = s.trace ++ stampAll s.time (cmdFrame s.params.opActivate) ∧
      OnlyBusDiffers s t ∧ BusRests .cmd s.params.opActivate t) ∧
    (∃ t, exec .deepSleep s = .next t ∧
      t.trace = s.trace ++ stampAll s.time (cmdFrame s.params.opDeepSleep ++ dataFrame 0x01#8) ∧
      OnlyBusDiffers s t ∧ BusRests .data 0x01#8 t)

/-- R151: WRITE_RAM, begun at DR6 and run whole there (log entry 7), is its command frame, closed, then one block frame with
the frame payload, 5631 events in no model time; FB is not written. The counters are left at their last values (the
model's reading of R36, log entry 10). -/
def Obligations.WriteRamSendsFrame : Prop :=
  labelAction .dr6 = some (.instr .writeRam) ∧ ∀ s : State, ∃ t, exec .writeRam s = .next t ∧
    t.trace = s.trace ++ stampAll s.time (cmdFrame s.params.opWriteRam ++ blockFrame (framePayload s)) ∧
    (cmdFrame s.params.opWriteRam ++ blockFrame (framePayload s)).length = 5631 ∧
    t.dp = { s.dp with rowCnt := 295#9, colCnt := 18#5, fbAddr := 18#13 } ∧
    BusRests .data (fbByte s 18) t ∧ OnlyBusDiffers { s with dp := t.dp } t

/-- R297: whatever instruction runs, in the events it adds the mode line moves only while the device is deselected, bytes go
only while it is selected, and the device is deselected at the end. -/
def Obligations.EveryInstructionKeepsFraming : Prop :=
  ∀ (s t : State) (i : Instr), exec i s = .next t →
    s.trace <+: t.trace ∧ framed false ((emittedSince s t).map Stamped.event) = true

/-- R95 to R97, R108, R290: the events a well-formed instruction adds are whole frames one after another: command frames with
one of the nine opcodes, data frames, block frames of at least one byte, and between them single events of the reset line
and timeout reports; and the frame payload goes out as one block frame, with nothing but a command frame beside it. -/
def Obligations.EveryInstructionEmitsWholeFrames : Prop :=
  ∀ (s t : State) (i : Instr), i.wellFormed s.params = true → exec i s = .next t →
    ∃ fs : List (List Event), (emittedSince s t).map Stamped.event = fs.flatten ∧ (∀ f ∈ fs, EventUnit s.params f) ∧
      (i = .writeRam ∨ i = .sendBlock .rowFetch →
        blockFrame (framePayload s) ∈ fs ∧ ∀ f ∈ fs, f = blockFrame (framePayload s) ∨ ∃ op, f = cmdFrame op)

/-- R108: no step, cut short or not, sends a byte in command mode that is none of the nine opcodes. -/
def Obligations.CommandBytesAreOpcodes : Prop :=
  ∀ (s t : State), step s = .next t →
    ∀ mb ∈ classify .data ((emittedSince s t).map Stamped.event), mb.1 = .cmd → mb.2 ∈ s.params.opcodes

/-! ### Delays, the reset pulse, waits -/

/-- R220: DELAY lets exactly `n` milliseconds pass and changes nothing but DELAY_CNT, which ends at 0, and TICK_DIV. -/
def Obligations.DelayPassesTime : Prop :=
  ∀ (s : State) (n : BitVec 8), ∃ t, exec (.delay n) s = .next t ∧ t.time = s.time + n.toNat ∧ t.dp.delayCnt = 0#8 ∧
    t = { s with time := t.time, dp.delayCnt := t.dp.delayCnt, dp.tickDiv := t.dp.tickDiv }

/-- R173: the reset pulse is high 200 ms, low 2 ms, high 200 ms: three events, 402 ms, the line high at the end, no busy
sample, and nothing else but the delay's counters. That the sequencer runs the whole of it at RS1, and at no other label, is
the model's (log entry 7). -/
def Obligations.ResetPulseShape : Prop :=
  (∀ l : Label, labelAction l = some (.instr .resetPulse) ↔ l = .rs1) ∧
  ∀ s : State, ∃ t, exec .resetPulse s = .next t ∧
    t.trace = s.trace ++ [⟨s.time, .rst true⟩, ⟨s.time + 200, .rst false⟩, ⟨s.time + 202, .rst true⟩] ∧
    t.time = s.time + 402 ∧
    t = { s with
      trace := t.trace
      time := t.time
      pins.rstOut := true
      dp.delayCnt := 0#8
      dp.tickDiv := t.dp.tickDiv }

/-- R212: without a busy line WAIT_IDLE succeeds at once: no sample, no delay, no time, ELAPSED not touched, whatever the
line's level. -/
def Obligations.WaitWithoutBusyLine : Prop :=
  ∀ (s : State) (w : Site), s.ctl.hasBusy = false → exec (.waitIdle w) s = .next { s with ctl.waitOk := true }

/-- R213, R217: with a busy line, the first `k` samples busy and the next idle, `k` at most 200: success after `100 k + 100`
ms and `k + 1` samples, no report, ELAPSED counting the polls only; nothing else changes. -/
def Obligations.WaitSucceeds : Prop :=
  ∀ (s : State) (w : Site) (k : Nat), s.ctl.hasBusy = true → k ≤ 200 → (∀ j < k, busyLine s j = true) →
    busyLine s k = false →
      ∃ t, exec (.waitIdle w) s = .next t ∧ t.ctl = { s.ctl with waitOk := true } ∧ t.time = s.time + (100 * k + 100) ∧
        t.draws.sampleIx = s.draws.sampleIx + (k + 1) ∧ t.env.busyIn = s.env.busyIn.drop (k + 1) ∧
        t.dp.elapsed.toNat = 100 * k ∧ t.dp.delayCnt = 0#8 ∧ t.trace = s.trace ∧
        t.pins = s.pins ∧ OnlyWaitDiffers s t

/-- R213, R216, R251: with a busy line, all 201 samples busy: failure after exactly 20000 ms and 201 samples, TIMEOUT_SEEN[w]
set and no bit cleared, LOG_SITE and the report, and nothing else: the sequence is not diverted. -/
def Obligations.WaitTimesOut : Prop :=
  ∀ (s : State) (w : Site), s.ctl.hasBusy = true → (∀ j ≤ 200, busyLine s j = true) →
    ∃ t, exec (.waitIdle w) s = .next t ∧
      t.ctl = { s.ctl with waitOk := false, timeoutSeen := s.ctl.timeoutSeen ||| (1#4 <<< w.toNat) } ∧
      t.ctl.timeoutSeen.getLsbD w.toNat = true ∧
      t.time = s.time + 20000 ∧ t.draws.sampleIx = s.draws.sampleIx + 201 ∧ t.env.busyIn = s.env.busyIn.drop 201 ∧
      t.dp.elapsed.toNat = 20000 ∧ t.dp.delayCnt = 0#8 ∧
      t.trace = s.trace ++ [⟨s.time + 20000, .log w⟩] ∧
      t.pins = { s.pins with logSite := w, logTimeout := true } ∧ OnlyWaitDiffers s t

/-- R222: whatever the busy line does, a wait ends within 201 samples and 20100 ms, and reports at most its own timeout. -/
def Obligations.WaitIsBounded : Prop :=
  ∀ (s : State) (w : Site), ∃ t, exec (.waitIdle w) s = .next t ∧ OnlyWaitDiffers s t ∧
    s.time ≤ t.time ∧ t.time ≤ s.time + 20100 ∧
    s.draws.sampleIx ≤ t.draws.sampleIx ∧ t.draws.sampleIx ≤ s.draws.sampleIx + 201 ∧
    (t.trace = s.trace ∧ t.ctl.timeoutSeen = s.ctl.timeoutSeen ∨ ∃ n, t.trace = s.trace ++ [⟨n, .log w⟩])

/-! ### The busy-line synchronizer -/

/-- R39, R218: with `rst` low every step clocks BUSY_SYNC. A step of one clock edge (no request accepted, or SET_PIXEL, UPDATE,
SLEEP accepted) shifts the chain by one stage, the first stage taking `busy_in`. After a step of an open number of edges (an
instruction of a sequence, or SETUP's acceptance with its FILL) the stages hold the levels `busy_in` had at its last
SYNC_STAGES edges, the latest in the first stage. How many edges a step stands for is the model's (log entry 6). -/
def Obligations.SynchronizerIsClocked : Prop :=
  ∀ s t : State, SyncAgrees s → s.env.inputs.rst = .low → step s = .next t →
    (s.seq.busy = false → t.pins.setupAck = false → t.busySync = (edgeLevel s 0 :: s.busySync).dropLast) ∧
    (s.seq.busy = true ∨ t.pins.setupAck = true →
      t.busySync = ((List.range s.params.syncStages).map (edgeLevel s)).reverse)

/-- R39, R214, R218: after SYNC_STAGES or more clock edges BUSY_Q shows the level `busy_in` had SYNC_STAGES edges before, and
the bit a sample returns is BUSY_Q at the sample (log entry 6). -/
def Obligations.BusyQFollowsLine : Prop :=
  (∀ (s : State) (n : Nat), SyncAgrees s → s.params.syncStages ≤ n →
    busyQ (clockEdges n s) = some (edgeLevel s (n - s.params.syncStages))) ∧
  (∀ (s : State) (b : Bool), SyncAgrees s → busyQ (takeSample b s) = some b ∧ SyncAgrees (takeSample b s))

/-! ### Reset -/

/-- R42: the reset table at the suggested open parameters, FB without a value (R25), the trace empty (R281). -/
def Obligations.ResetTable : Prop :=
  State.reset.seq = ⟨.uninitialized, .none, false⟩ ∧ State.reset.fb = [] ∧
    State.reset.ctl = ⟨0#32, 0#32, false, false, 0b0000#4, true⟩ ∧
    State.reset.pins.rstOut = true ∧ State.reset.pins.dcOut = !State.reset.params.dcCmdLevel ∧
    State.reset.pins.csOut = !State.reset.params.csActiveLevel ∧ State.reset.pins.txValid = false ∧
    State.reset.pins.txByte = 0x00#8 ∧ State.reset.pins.logSite = 0#2 ∧ State.reset.pins.logTimeout = false ∧
    State.reset.pins.setupAck = false ∧ State.reset.pins.updateAck = false ∧ State.reset.pins.sleepAck = false ∧
    State.reset.pins.pxAck = false ∧ State.reset.dp = ⟨0#9, 0#5, 0#13, 0#8, 0, 0#15⟩ ∧
    State.reset.busySync = List.replicate State.reset.params.syncStages true ∧ State.reset.trace = []

/-- R280, R258 (c), R281: a step with `rst` high gives every register the value of the reset table, whatever is requested or
in progress; FB has no value afterwards, no event is emitted, no request is acknowledged. -/
def Obligations.BlockResetStep : Prop :=
  ∀ s : State, s.env.inputs.rst = .high →
    ∃ t, step s = .next t ∧ t.seq = Seq.atReset ∧ t.fb = [] ∧ t.ctl = Ctl.atReset ∧ t.pins = Pins.atReset s.params ∧
      t.dp = Datapath.atReset ∧ t.busySync = List.replicate s.params.syncStages true ∧ t.params = s.params ∧
      t.time = s.time ∧ t.trace = s.trace

/-- R283: `rst` rising in the middle of a sequence's step cuts it at once: the events emitted are a beginning of those the
uncut step would have emitted, they stay emitted, and every register has its reset value. -/
def Obligations.ResetCutsSequence : Prop :=
  ∀ (s u : State) (k : Nat), s.env.inputs.rst = .during k → s.seq.busy = true →
    step { s with env.inputs.rst := .low } = .next u →
      ∃ t, step s = .next t ∧ s.trace <+: t.trace ∧ t.trace <+: u.trace ∧ s.time ≤ t.time ∧ t.time ≤ u.time ∧
        t.seq = Seq.atReset ∧ t.fb = [] ∧ t.ctl = Ctl.atReset ∧ t.pins = Pins.atReset s.params ∧
        t.dp = Datapath.atReset ∧ t.busySync = List.replicate s.params.syncStages true

/-! ### The whole machine -/

/-- The invariant holds at reset. -/
def Obligations.InvariantAtReset : Prop := Inv State.reset

/-- Every step keeps the invariant: STATE, STEP and SEQ_BUSY agree (R21 to R23), FB is canonical and has its values exactly
after FILL (R24, R25), the device rests deselected with no byte offered and the reset line high but in RS4 and RS5
(R31, R33, R34), the counters are in range (R36 to R38), no timeout is recorded without a busy line (R212), the
synchronizer has SYNC_STAGES stages (R39). -/
def Obligations.InvariantKept : Prop :=
  ∀ s t : State, Inv s → step s = .next t → Inv t

/-- R250: no state of the invariant stops: every step answers a next state. -/
def Obligations.NoStepStops : Prop :=
  ∀ s : State, Inv s → ∃ t, step s = .next t

/-- R192: the complete transition table of STATE. From a state whose sequencer position agrees, a step leaves STATE alone or
makes one of these moves, under its condition. The labels at which the moves stand are the model's where a step covers
several: R192 has Resetting end when RS6 has finished and Drawing when DR7 has, which the model's steps at RS1 (all of RS1 to
RS6) and at DR6 (DR6 and DR7) also reach (log entry 7); and that the move out of Uninitialized falls in the step that
acknowledges SETUP, SU0 done, is log entry 30. -/
def Obligations.StageTransitions : Prop :=
  ∀ s t : State, SeqAgrees s → step s = .next t →
    (t.seq.stage = .uninitialized ∧ s.env.inputs.rst ≠ .low) ∨
    t.seq.stage = s.seq.stage ∨
    (s.seq.stage = .uninitialized ∧ t.seq.stage = .resetting ∧ t.ctl.hasReset = true ∧
      (t.pins.setupAck = true ∨ s.seq.label = .su0)) ∨
    (s.seq.stage = .uninitialized ∧ t.seq.stage = .initializing ∧ t.ctl.hasReset = false ∧
      (t.pins.setupAck = true ∨ s.seq.label = .su0)) ∨
    (s.seq.stage = .resetting ∧ t.seq.stage = .initializing ∧ (s.seq.label = .rs1 ∨ s.seq.label = .rs6)) ∨
    (s.seq.stage = .initializing ∧ t.seq.stage = .idle ∧ s.seq.label = .in14) ∨
    (s.seq.stage = .idle ∧ t.seq.stage = .drawing ∧ t.pins.updateAck = true) ∨
    (s.seq.stage = .drawing ∧ t.seq.stage = .refreshing ∧ (s.seq.label = .dr6 ∨ s.seq.label = .dr7)) ∨
    (s.seq.stage = .refreshing ∧ t.seq.stage = .idle ∧ s.seq.label = .rf2) ∨
    (s.seq.stage = .idle ∧ t.seq.stage = .sleeping ∧ t.pins.sleepAck = true)

/-- R191, R294: Sleeping is terminal: while `rst` is low a step from it stays in it, acknowledges no SETUP, UPDATE or SLEEP, and
once the deep-sleep command is out emits nothing. That the step leaves no sequence in progress, from SL1 too, is the model's:
it runs DEEP_SLEEP over SL1 and SL2 in one step (log entry 7), where R190 has two. -/
def Obligations.SleepingIsTerminal : Prop :=
  ∀ s : State, SeqAgrees s → s.seq.stage = .sleeping → s.env.inputs.rst = .low →
    ∃ t, step s = .next t ∧ t.seq.stage = .sleeping ∧ t.seq.busy = false ∧ t.pins.setupAck = false ∧
      t.pins.updateAck = false ∧ t.pins.sleepAck = false ∧ (s.seq.busy = false → t.trace = s.trace ∧ t.time = s.time)

/-- R29, R301: a bit of TIMEOUT_SEEN once set stays set in every step without a block reset. -/
def Obligations.TimeoutBitsSticky : Prop :=
  ∀ s t : State, s.env.inputs.rst = .low → step s = .next t →
    ∀ w < 4, s.ctl.timeoutSeen.getLsbD w = true → t.ctl.timeoutSeen.getLsbD w = true

/-- R24, R72: FB is written by FILL and SET_PIXEL alone: a step without a block reset that changes a byte either accepts SETUP
(or runs its FILL), or accepts a SET_PIXEL and changes no other byte than that pixel's. -/
def Obligations.OnlyFillAndSetPixelWriteFb : Prop :=
  ∀ (s t : State) (a : Nat), s.env.inputs.rst = .low → step s = .next t → memRead t.fb a ≠ memRead s.fb a →
    s.seq.label = .su0 ∨ t.pins.setupAck = true ∨
      (t.pins.pxAck = true ∧ inBounds s.env.inputs.request.pxX s.env.inputs.request.pxY = true ∧
        a = pixelIndex s.env.inputs.request.pxX s.env.inputs.request.pxY)

/-- R231, R291: while a sequence is in progress nothing is accepted: no acknowledge pulses, UPDATE_COUNT and the
configuration stand, and FB stands but at SU0's FILL. -/
def Obligations.NothingAcceptedWhileBusy : Prop :=
  ∀ s t : State, s.seq.busy = true → s.env.inputs.rst = .low → step s = .next t →
    t.pins.setupAck = false ∧ t.pins.updateAck = false ∧ t.pins.sleepAck = false ∧ t.pins.pxAck = false ∧
      t.ctl.updateCount = s.ctl.updateCount ∧ t.ctl.fullUpdateEvery = s.ctl.fullUpdateEvery ∧
      t.ctl.hasReset = s.ctl.hasReset ∧ t.ctl.hasBusy = s.ctl.hasBusy ∧ (s.seq.label ≠ .su0 → t.fb = s.fb)

/-- R22, R193, R251: the next position of a sequence is a function of the position and the latched reset configuration alone:
no wait's result, no byte of FB and no count diverts it, and a timed-out wait is followed by the step that would have
followed its success. Which labels one step covers is the model's (log entry 7). -/
def Obligations.SequenceIsNeverDiverted : Prop :=
  ∀ s : State, s.seq.busy = true → s.seq.label ≠ .none → s.env.inputs.rst = .low →
    ∃ t, step s = .next t ∧ t.seq = seqAfter s.ctl.hasReset s.seq ∧
      (t.seq.busy = true ∨ t.seq = ⟨.idle, .none, false⟩ ∨ t.seq = ⟨.sleeping, .none, false⟩)

/-- R143, R221, R283, D28: in every step, block reset included, the trace only grows, time does not run back, and each new
event carries a time between the step's start and its end, in order. -/
def Obligations.TraceGrowsInOrder : Prop :=
  ∀ s t : State, step s = .next t →
    s.trace <+: t.trace ∧ s.time ≤ t.time ∧
      (∀ e ∈ emittedSince s t, s.time ≤ e.time ∧ e.time ≤ t.time) ∧
      (emittedSince s t).Pairwise (fun d e => d.time ≤ e.time)

/-- R27, R28: FULL_UPDATE_EVERY, CFG_HAS_RESET and CFG_HAS_BUSY change only when SETUP is accepted, which loads them from the
ports, or at a block reset; the board's parameters never change. -/
def Obligations.ConfigurationLatchedAtSetup : Prop :=
  ∀ s t : State, step s = .next t →
    t.params = s.params ∧
      (s.env.inputs.rst = .low →
        (t.pins.setupAck = true ∧ t.ctl.hasReset = s.env.inputs.request.cfgHasReset ∧
          t.ctl.hasBusy = s.env.inputs.request.cfgHasBusy ∧
          t.ctl.fullUpdateEvery = s.env.inputs.request.cfgFullUpdateEvery) ∨
        (t.pins.setupAck = false ∧ t.ctl.hasReset = s.ctl.hasReset ∧ t.ctl.hasBusy = s.ctl.hasBusy ∧
          t.ctl.fullUpdateEvery = s.ctl.fullUpdateEvery))

/-- R26, R27, R299: UPDATE_COUNT and FULL_UPDATE_EVERY are stored and never consulted: two states that differ only in them (and
in the port that loads the second) make steps that differ only there. -/
def Obligations.CountsAreNeverConsulted : Prop :=
  ∀ s s' : State, withoutCounts s = withoutCounts s' →
    mapNext withoutCounts (step s) = mapNext withoutCounts (step s')

/-! ### The output ports -/

/-- R20, R21, R23: what the output ports show: `ready` is the complement of SEQ_BUSY, `state` the encoding of STATE, whose
value 7 is never shown, and the others the registers and latches they are named after. -/
def Obligations.PortsShowState : Prop :=
  (stageCode .uninitialized = 0#3 ∧ stageCode .resetting = 1#3 ∧ stageCode .initializing = 2#3 ∧ stageCode .idle = 3#3 ∧
    stageCode .drawing = 4#3 ∧ stageCode .refreshing = 5#3 ∧ stageCode .sleeping = 6#3 ∧ ∀ st, stageCode st ≠ 7#3) ∧
  ∀ s : State,
    (outputs s).ready = !s.seq.busy ∧ (outputs s).state = stageCode s.seq.stage ∧
    (outputs s).setupAck = s.pins.setupAck ∧ (outputs s).updateAck = s.pins.updateAck ∧
    (outputs s).sleepAck = s.pins.sleepAck ∧ (outputs s).pxAck = s.pins.pxAck ∧ (outputs s).fbRdata = s.fbRdata ∧
    (outputs s).timeoutSeen = s.ctl.timeoutSeen ∧ (outputs s).updateCount = s.ctl.updateCount ∧
    (outputs s).logTimeout = s.pins.logTimeout ∧ (outputs s).logSite = s.pins.logSite ∧
    (outputs s).rstOut = s.pins.rstOut ∧ (outputs s).dcOut = s.pins.dcOut ∧ (outputs s).csOut = s.pins.csOut ∧
    (outputs s).txByte = s.pins.txByte ∧ (outputs s).txValid = s.pins.txValid

/-- R23, R176, R186, R190: `ready` falls in the step that accepts a SETUP, UPDATE or SLEEP and in no other, and rises in the step
that runs the last instruction of a sequence and in no other; a SET_PIXEL leaves it. Which labels those are, given that a
step runs a whole instruction, is log entry 7. -/
def Obligations.ReadyFollowsSequence : Prop :=
  ∀ s t : State, SeqAgrees s → s.env.inputs.rst = .low → step s = .next t →
    ((outputs s).ready = true →
      ((outputs t).ready = false ↔
        (outputs t).setupAck = true ∨ (outputs t).updateAck = true ∨ (outputs t).sleepAck = true)) ∧
    ((outputs s).ready = false →
      ((outputs t).ready = true ↔
        s.seq.label = .in14 ∨ s.seq.label = .rf2 ∨ s.seq.label = .sl1 ∨ s.seq.label = .sl2))

/-! ### Whole sequences -/

/-- R170 to R177: a SETUP accepted in Uninitialized runs to its end whatever the busy line does and whatever the host asks
meanwhile, without a block reset: Idle, ready, FB all 0xFF, UPDATE_COUNT 0; its bus events are INIT's eleven frames,
read as the byte sequence of the source's test property; it drives the reset line three times with a reset line, at 0, 200
and 202 ms, and never without one; only the sites W0 to W2 can be recorded; it takes at most 60702 ms of model time. That
these are 8 or 9 steps is the model's (log entries 7 and 20). -/
def Obligations.SetupRunsToIdle : Prop :=
  ∀ s : State, s.seq = ⟨.uninitialized, .none, false⟩ → s.env.inputs.request.setupReq = true → NoReset s →
    ∃ t, runSteps (if s.env.inputs.request.cfgHasReset then 9 else 8) s = .next t ∧
      t.seq = ⟨.idle, .none, false⟩ ∧
      (∀ a, memRead t.fb a = if a < 5624 then some 0xFF#8 else none) ∧
      t.ctl.updateCount = 0#32 ∧ t.ctl.fullUpdateEvery = s.env.inputs.request.cfgFullUpdateEvery ∧
      s.trace <+: t.trace ∧ busEvents (emittedSince s t) = initFrames ∧
      (emittedSince s t).filter (fun e => isRstEvent e.event) =
        (if s.env.inputs.request.cfgHasReset then
          [⟨s.time, .rst true⟩, ⟨s.time + 200, .rst false⟩, ⟨s.time + 202, .rst true⟩]
        else []) ∧
      classify .data initFrames =
        [(.cmd, 0x12#8), (.cmd, 0x11#8), (.data, 0x03#8), (.cmd, 0x44#8), (.data, 0x01#8), (.data, 0x13#8),
          (.cmd, 0x45#8), (.data, 0x00#8), (.data, 0x00#8), (.data, 0x28#8), (.data, 0x01#8)] ∧
      t.ctl.timeoutSeen.getLsbD 3 = s.ctl.timeoutSeen.getLsbD 3 ∧
      s.time + (if s.env.inputs.request.cfgHasReset then 402 else 0) ≤ t.time ∧ t.time ≤ s.time + 60702 ∧
      (s.env.inputs.request.cfgHasBusy = false →
        t.time = s.time + (if s.env.inputs.request.cfgHasReset then 402 else 0))

/-- R180 to R187, R77: an UPDATE accepted in Idle runs to its end whatever the busy line does and whatever the host asks
meanwhile: Idle, ready, UPDATE_COUNT up by one, FB unchanged; its bus events are the counter commands, WRITE_RAM with
FB as it was when UPDATE was accepted, and ACTIVATE; only site W3 can be recorded; it takes at most 20100 ms. That these are
6 steps is the model's (log entry 7). -/
def Obligations.UpdateRunsToIdle : Prop :=
  ∀ s : State, FreeFor .idle s → s.env.inputs.request.updateReq = true → NoReset s →
    ∃ t, runSteps 6 s = .next t ∧ t.seq = ⟨.idle, .none, false⟩ ∧ t.fb = s.fb ∧
      t.ctl.updateCount = s.ctl.updateCount + 1#32 ∧ s.trace <+: t.trace ∧
      busEvents (emittedSince s t) = updateFrames s.params (framePayload s) ∧
      (∀ w < 3, t.ctl.timeoutSeen.getLsbD w = s.ctl.timeoutSeen.getLsbD w) ∧
      s.time ≤ t.time ∧ t.time ≤ s.time + 20100 ∧ (s.ctl.hasBusy = false → t.time = s.time)

/-- R187 (b): two UPDATEs one after the other with FB unchanged send the same bus events. That an UPDATE is 6 steps is the
model's (log entry 7). -/
def Obligations.UpdateIsIdempotent : Prop :=
  ∀ s t u : State, FreeFor .idle s → s.env.inputs.request.updateReq = true → NoReset s → runSteps 6 s = .next t →
    t.env.inputs.request.pxWe = false → t.env.inputs.request.updateReq = true → runSteps 6 t = .next u →
      u.seq = ⟨.idle, .none, false⟩ ∧ u.fb = s.fb ∧ busEvents (emittedSince t u) = busEvents (emittedSince s t)

/-- R190, R191: a SLEEP accepted in Idle emits the deep-sleep command and its byte in no model time, with no busy sample, and
leaves the block in Sleeping, ready, with FB and the counts as they were. That these are 2 steps is the model's (log entry
7). -/
def Obligations.SleepRunsToSleeping : Prop :=
  ∀ s : State, FreeFor .idle s → s.env.inputs.request.updateReq = false → s.env.inputs.request.sleepReq = true →
    NoReset s →
      ∃ t, runSteps 2 s = .next t ∧ t.seq = ⟨.sleeping, .none, false⟩ ∧ t.fb = s.fb ∧ t.ctl = s.ctl ∧ t.time = s.time ∧
        t.draws.sampleIx = s.draws.sampleIx ∧
        t.trace = s.trace ++ stampAll s.time (cmdFrame s.params.opDeepSleep ++ dataFrame 0x01#8)
end

