-- ==== Sys2Proof/Laws/State.lean ====
section
/-! SUPPORT. What each named operation leaves in each part of the state: one lemma a part, so that no proof unfolds a record
update. -/

namespace Sys2Proof.Machine

variable (s : State)

/-! ### emit -/

@[simp] theorem emit_params (e : Event) : (emit e s).params = s.params := rfl
@[simp] theorem emit_seq (e : Event) : (emit e s).seq = s.seq := rfl
@[simp] theorem emit_fb (e : Event) : (emit e s).fb = s.fb := rfl
@[simp] theorem emit_ctl (e : Event) : (emit e s).ctl = s.ctl := rfl
@[simp] theorem emit_pins (e : Event) : (emit e s).pins = s.pins := rfl
@[simp] theorem emit_dp (e : Event) : (emit e s).dp = s.dp := rfl
@[simp] theorem emit_busySync (e : Event) : (emit e s).busySync = s.busySync := rfl
@[simp] theorem emit_fbRdata (e : Event) : (emit e s).fbRdata = s.fbRdata := rfl
@[simp] theorem emit_time (e : Event) : (emit e s).time = s.time := rfl
@[simp] theorem emit_trace (e : Event) : (emit e s).trace = s.trace ++ [⟨s.time, e⟩] := rfl
@[simp] theorem emit_env (e : Event) : (emit e s).env = s.env := rfl
@[simp] theorem emit_draws (e : Event) : (emit e s).draws = s.draws := rfl

/-! ### driveRst -/

@[simp] theorem driveRst_params (l : Bool) : (driveRst l s).params = s.params := rfl
@[simp] theorem driveRst_seq (l : Bool) : (driveRst l s).seq = s.seq := rfl
@[simp] theorem driveRst_fb (l : Bool) : (driveRst l s).fb = s.fb := rfl
@[simp] theorem driveRst_ctl (l : Bool) : (driveRst l s).ctl = s.ctl := rfl
@[simp] theorem driveRst_pins (l : Bool) : (driveRst l s).pins = { s.pins with rstOut := l } := rfl
@[simp] theorem driveRst_dp (l : Bool) : (driveRst l s).dp = s.dp := rfl
@[simp] theorem driveRst_busySync (l : Bool) : (driveRst l s).busySync = s.busySync := rfl
@[simp] theorem driveRst_fbRdata (l : Bool) : (driveRst l s).fbRdata = s.fbRdata := rfl
@[simp] theorem driveRst_time (l : Bool) : (driveRst l s).time = s.time := rfl
@[simp] theorem driveRst_trace (l : Bool) : (driveRst l s).trace = s.trace ++ [⟨s.time, .rst l⟩] := rfl
@[simp] theorem driveRst_env (l : Bool) : (driveRst l s).env = s.env := rfl
@[simp] theorem driveRst_draws (l : Bool) : (driveRst l s).draws = s.draws := rfl

/-! ### setMode -/

@[simp] theorem setMode_params (m : BusMode) : (setMode m s).params = s.params := rfl
@[simp] theorem setMode_seq (m : BusMode) : (setMode m s).seq = s.seq := rfl
@[simp] theorem setMode_fb (m : BusMode) : (setMode m s).fb = s.fb := rfl
@[simp] theorem setMode_ctl (m : BusMode) : (setMode m s).ctl = s.ctl := rfl
@[simp] theorem setMode_pins (m : BusMode) :
    (setMode m s).pins =
    { s.pins with dcOut := modeLevel s.params m } := rfl
@[simp] theorem setMode_dp (m : BusMode) : (setMode m s).dp = s.dp := rfl
@[simp] theorem setMode_busySync (m : BusMode) : (setMode m s).busySync = s.busySync := rfl
@[simp] theorem setMode_fbRdata (m : BusMode) : (setMode m s).fbRdata = s.fbRdata := rfl
@[simp] theorem setMode_time (m : BusMode) : (setMode m s).time = s.time := rfl
@[simp] theorem setMode_trace (m : BusMode) : (setMode m s).trace = s.trace ++ [⟨s.time, .mode m⟩] := rfl
@[simp] theorem setMode_env (m : BusMode) : (setMode m s).env = s.env := rfl
@[simp] theorem setMode_draws (m : BusMode) : (setMode m s).draws = s.draws := rfl

/-! ### setSel -/

@[simp] theorem setSel_params (on : Bool) : (setSel on s).params = s.params := rfl
@[simp] theorem setSel_seq (on : Bool) : (setSel on s).seq = s.seq := rfl
@[simp] theorem setSel_fb (on : Bool) : (setSel on s).fb = s.fb := rfl
@[simp] theorem setSel_ctl (on : Bool) : (setSel on s).ctl = s.ctl := rfl
@[simp] theorem setSel_pins (on : Bool) : (setSel on s).pins = { s.pins with csOut := selLevel s.params on } := rfl
@[simp] theorem setSel_dp (on : Bool) : (setSel on s).dp = s.dp := rfl
@[simp] theorem setSel_busySync (on : Bool) : (setSel on s).busySync = s.busySync := rfl
@[simp] theorem setSel_fbRdata (on : Bool) : (setSel on s).fbRdata = s.fbRdata := rfl
@[simp] theorem setSel_time (on : Bool) : (setSel on s).time = s.time := rfl
@[simp] theorem setSel_trace (on : Bool) : (setSel on s).trace = s.trace ++ [⟨s.time, .sel on⟩] := rfl
@[simp] theorem setSel_env (on : Bool) : (setSel on s).env = s.env := rfl
@[simp] theorem setSel_draws (on : Bool) : (setSel on s).draws = s.draws := rfl

/-! ### offerByte -/

@[simp] theorem offerByte_params (b : Byte) : (offerByte b s).params = s.params := rfl
@[simp] theorem offerByte_seq (b : Byte) : (offerByte b s).seq = s.seq := rfl
@[simp] theorem offerByte_fb (b : Byte) : (offerByte b s).fb = s.fb := rfl
@[simp] theorem offerByte_ctl (b : Byte) : (offerByte b s).ctl = s.ctl := rfl
@[simp] theorem offerByte_pins (b : Byte) :
    (offerByte b s).pins =
    { s.pins with txByte := b, txValid := true } := rfl
@[simp] theorem offerByte_dp (b : Byte) : (offerByte b s).dp = s.dp := rfl
@[simp] theorem offerByte_busySync (b : Byte) : (offerByte b s).busySync = s.busySync := rfl
@[simp] theorem offerByte_fbRdata (b : Byte) : (offerByte b s).fbRdata = s.fbRdata := rfl
@[simp] theorem offerByte_time (b : Byte) : (offerByte b s).time = s.time := rfl
@[simp] theorem offerByte_trace (b : Byte) : (offerByte b s).trace = s.trace := rfl
@[simp] theorem offerByte_env (b : Byte) : (offerByte b s).env = s.env := rfl
@[simp] theorem offerByte_draws (b : Byte) : (offerByte b s).draws = s.draws := rfl

/-! ### takeByte -/

@[simp] theorem takeByte_params : (takeByte s).params = s.params := rfl
@[simp] theorem takeByte_seq : (takeByte s).seq = s.seq := rfl
@[simp] theorem takeByte_fb : (takeByte s).fb = s.fb := rfl
@[simp] theorem takeByte_ctl : (takeByte s).ctl = s.ctl := rfl
@[simp] theorem takeByte_pins : (takeByte s).pins = { s.pins with txValid := false } := rfl
@[simp] theorem takeByte_dp : (takeByte s).dp = s.dp := rfl
@[simp] theorem takeByte_busySync : (takeByte s).busySync = s.busySync := rfl
@[simp] theorem takeByte_fbRdata : (takeByte s).fbRdata = s.fbRdata := rfl
@[simp] theorem takeByte_time : (takeByte s).time = s.time := rfl
@[simp] theorem takeByte_trace : (takeByte s).trace = s.trace ++ [⟨s.time, .xfer s.pins.txByte⟩] := rfl
@[simp] theorem takeByte_env : (takeByte s).env = s.env := rfl
@[simp] theorem takeByte_draws : (takeByte s).draws = s.draws := rfl

/-! ### rowFetch -/

@[simp] theorem rowFetch_params (j i : Nat) : (rowFetch j i s).params = s.params := rfl
@[simp] theorem rowFetch_seq (j i : Nat) : (rowFetch j i s).seq = s.seq := rfl
@[simp] theorem rowFetch_fb (j i : Nat) : (rowFetch j i s).fb = s.fb := rfl
@[simp] theorem rowFetch_ctl (j i : Nat) : (rowFetch j i s).ctl = s.ctl := rfl
@[simp] theorem rowFetch_pins (j i : Nat) :
    (rowFetch j i s).pins =
    { s.pins with txByte := fbByte s (rowFetchAddr j i), txValid := true } := rfl
@[simp] theorem rowFetch_dp (j i : Nat) :
    (rowFetch j i s).dp =
    { s.dp with
      rowCnt := BitVec.ofNat 9 j
      colCnt := BitVec.ofNat 5 i
      fbAddr := BitVec.ofNat 13 (rowFetchAddr j i) } := rfl
@[simp] theorem rowFetch_busySync (j i : Nat) : (rowFetch j i s).busySync = s.busySync := rfl
@[simp] theorem rowFetch_fbRdata (j i : Nat) : (rowFetch j i s).fbRdata = s.fbRdata := rfl
@[simp] theorem rowFetch_time (j i : Nat) : (rowFetch j i s).time = s.time := rfl
@[simp] theorem rowFetch_trace (j i : Nat) : (rowFetch j i s).trace = s.trace := rfl
@[simp] theorem rowFetch_env (j i : Nat) : (rowFetch j i s).env = s.env := rfl
@[simp] theorem rowFetch_draws (j i : Nat) : (rowFetch j i s).draws = s.draws := rfl

/-! ### startDelay -/

@[simp] theorem startDelay_params (n : BitVec 8) : (startDelay n s).params = s.params := rfl
@[simp] theorem startDelay_seq (n : BitVec 8) : (startDelay n s).seq = s.seq := rfl
@[simp] theorem startDelay_fb (n : BitVec 8) : (startDelay n s).fb = s.fb := rfl
@[simp] theorem startDelay_ctl (n : BitVec 8) : (startDelay n s).ctl = s.ctl := rfl
@[simp] theorem startDelay_pins (n : BitVec 8) : (startDelay n s).pins = s.pins := rfl
@[simp] theorem startDelay_dp (n : BitVec 8) : (startDelay n s).dp = { s.dp with delayCnt := n, tickDiv := 0 } := rfl
@[simp] theorem startDelay_busySync (n : BitVec 8) : (startDelay n s).busySync = s.busySync := rfl
@[simp] theorem startDelay_fbRdata (n : BitVec 8) : (startDelay n s).fbRdata = s.fbRdata := rfl
@[simp] theorem startDelay_time (n : BitVec 8) : (startDelay n s).time = s.time := rfl
@[simp] theorem startDelay_trace (n : BitVec 8) : (startDelay n s).trace = s.trace := rfl
@[simp] theorem startDelay_env (n : BitVec 8) : (startDelay n s).env = s.env := rfl
@[simp] theorem startDelay_draws (n : BitVec 8) : (startDelay n s).draws = s.draws := rfl

/-! ### tickMs -/

@[simp] theorem tickMs_params : (tickMs s).params = s.params := rfl
@[simp] theorem tickMs_seq : (tickMs s).seq = s.seq := rfl
@[simp] theorem tickMs_fb : (tickMs s).fb = s.fb := rfl
@[simp] theorem tickMs_ctl : (tickMs s).ctl = s.ctl := rfl
@[simp] theorem tickMs_pins : (tickMs s).pins = s.pins := rfl
@[simp] theorem tickMs_dp : (tickMs s).dp = { s.dp with delayCnt := s.dp.delayCnt - 1#8, tickDiv := 0 } := rfl
@[simp] theorem tickMs_busySync : (tickMs s).busySync = s.busySync := rfl
@[simp] theorem tickMs_fbRdata : (tickMs s).fbRdata = s.fbRdata := rfl
@[simp] theorem tickMs_time : (tickMs s).time = s.time + 1 := rfl
@[simp] theorem tickMs_trace : (tickMs s).trace = s.trace := rfl
@[simp] theorem tickMs_env : (tickMs s).env = s.env := rfl
@[simp] theorem tickMs_draws : (tickMs s).draws = s.draws := rfl

/-! ### takeSample -/

@[simp] theorem takeSample_params (b : Bool) : (takeSample b s).params = s.params := rfl
@[simp] theorem takeSample_seq (b : Bool) : (takeSample b s).seq = s.seq := rfl
@[simp] theorem takeSample_fb (b : Bool) : (takeSample b s).fb = s.fb := rfl
@[simp] theorem takeSample_ctl (b : Bool) : (takeSample b s).ctl = s.ctl := rfl
@[simp] theorem takeSample_pins (b : Bool) : (takeSample b s).pins = s.pins := rfl
@[simp] theorem takeSample_dp (b : Bool) : (takeSample b s).dp = s.dp := rfl
@[simp] theorem takeSample_busySync (b : Bool) :
    (takeSample b s).busySync =
    syncAfter s.params.syncStages s.draws.sampleIx b := rfl
@[simp] theorem takeSample_fbRdata (b : Bool) : (takeSample b s).fbRdata = s.fbRdata := rfl
@[simp] theorem takeSample_time (b : Bool) : (takeSample b s).time = s.time := rfl
@[simp] theorem takeSample_trace (b : Bool) : (takeSample b s).trace = s.trace := rfl
@[simp] theorem takeSample_env (b : Bool) : (takeSample b s).env = { s.env with busyIn := s.env.busyIn.tail } := rfl
@[simp] theorem takeSample_draws (b : Bool) :
    (takeSample b s).draws =
    { s.draws with sampleIx := s.draws.sampleIx + 1 } := rfl

/-! ### clockEdge -/

@[simp] theorem clockEdge_params : (clockEdge s).params = s.params := rfl
@[simp] theorem clockEdge_seq : (clockEdge s).seq = s.seq := rfl
@[simp] theorem clockEdge_fb : (clockEdge s).fb = s.fb := rfl
@[simp] theorem clockEdge_ctl : (clockEdge s).ctl = s.ctl := rfl
@[simp] theorem clockEdge_pins : (clockEdge s).pins = s.pins := rfl
@[simp] theorem clockEdge_dp : (clockEdge s).dp = s.dp := rfl
@[simp] theorem clockEdge_busySync : (clockEdge s).busySync = (edgeLevel s 0 :: s.busySync).dropLast := rfl
@[simp] theorem clockEdge_fbRdata : (clockEdge s).fbRdata = s.fbRdata := rfl
@[simp] theorem clockEdge_time : (clockEdge s).time = s.time := rfl
@[simp] theorem clockEdge_trace : (clockEdge s).trace = s.trace := rfl
@[simp] theorem clockEdge_env : (clockEdge s).env = { s.env with lineIn := s.env.lineIn.tail } := rfl
@[simp] theorem clockEdge_draws : (clockEdge s).draws = { s.draws with edgeIx := s.draws.edgeIx + 1 } := rfl

/-! ### clearElapsed -/

@[simp] theorem clearElapsed_params : (clearElapsed s).params = s.params := rfl
@[simp] theorem clearElapsed_seq : (clearElapsed s).seq = s.seq := rfl
@[simp] theorem clearElapsed_fb : (clearElapsed s).fb = s.fb := rfl
@[simp] theorem clearElapsed_ctl : (clearElapsed s).ctl = s.ctl := rfl
@[simp] theorem clearElapsed_pins : (clearElapsed s).pins = s.pins := rfl
@[simp] theorem clearElapsed_dp : (clearElapsed s).dp = { s.dp with elapsed := 0#15 } := rfl
@[simp] theorem clearElapsed_busySync : (clearElapsed s).busySync = s.busySync := rfl
@[simp] theorem clearElapsed_fbRdata : (clearElapsed s).fbRdata = s.fbRdata := rfl
@[simp] theorem clearElapsed_time : (clearElapsed s).time = s.time := rfl
@[simp] theorem clearElapsed_trace : (clearElapsed s).trace = s.trace := rfl
@[simp] theorem clearElapsed_env : (clearElapsed s).env = s.env := rfl
@[simp] theorem clearElapsed_draws : (clearElapsed s).draws = s.draws := rfl

/-! ### addElapsed -/

@[simp] theorem addElapsed_params : (addElapsed s).params = s.params := rfl
@[simp] theorem addElapsed_seq : (addElapsed s).seq = s.seq := rfl
@[simp] theorem addElapsed_fb : (addElapsed s).fb = s.fb := rfl
@[simp] theorem addElapsed_ctl : (addElapsed s).ctl = s.ctl := rfl
@[simp] theorem addElapsed_pins : (addElapsed s).pins = s.pins := rfl
@[simp] theorem addElapsed_dp :
    (addElapsed s).dp =
    { s.dp with elapsed := s.dp.elapsed + BitVec.ofNat 15 Config.pollMs } := rfl
@[simp] theorem addElapsed_busySync : (addElapsed s).busySync = s.busySync := rfl
@[simp] theorem addElapsed_fbRdata : (addElapsed s).fbRdata = s.fbRdata := rfl
@[simp] theorem addElapsed_time : (addElapsed s).time = s.time := rfl
@[simp] theorem addElapsed_trace : (addElapsed s).trace = s.trace := rfl
@[simp] theorem addElapsed_env : (addElapsed s).env = s.env := rfl
@[simp] theorem addElapsed_draws : (addElapsed s).draws = s.draws := rfl

/-! ### fillFb -/

@[simp] theorem fillFb_params : (fillFb s).params = s.params := rfl
@[simp] theorem fillFb_seq : (fillFb s).seq = s.seq := rfl
@[simp] theorem fillFb_fb : (fillFb s).fb = memFilled := rfl
@[simp] theorem fillFb_ctl : (fillFb s).ctl = s.ctl := rfl
@[simp] theorem fillFb_pins : (fillFb s).pins = s.pins := rfl
@[simp] theorem fillFb_dp : (fillFb s).dp = { s.dp with fbAddr := BitVec.ofNat 13 (Config.fbBytes - 1) } := rfl
@[simp] theorem fillFb_busySync : (fillFb s).busySync = s.busySync := rfl
@[simp] theorem fillFb_fbRdata : (fillFb s).fbRdata = s.fbRdata := rfl
@[simp] theorem fillFb_time : (fillFb s).time = s.time := rfl
@[simp] theorem fillFb_trace : (fillFb s).trace = s.trace := rfl
@[simp] theorem fillFb_env : (fillFb s).env = s.env := rfl
@[simp] theorem fillFb_draws : (fillFb s).draws = s.draws := rfl

/-! ### takeTimeout -/

@[simp] theorem takeTimeout_params (w : Site) : (takeTimeout w s).params = s.params := rfl
@[simp] theorem takeTimeout_seq (w : Site) : (takeTimeout w s).seq = s.seq := rfl
@[simp] theorem takeTimeout_fb (w : Site) : (takeTimeout w s).fb = s.fb := rfl
@[simp] theorem takeTimeout_ctl (w : Site) :
    (takeTimeout w s).ctl =
    { s.ctl with timeoutSeen := s.ctl.timeoutSeen ||| (1#4 <<< w.toNat) } := rfl
@[simp] theorem takeTimeout_pins (w : Site) :
    (takeTimeout w s).pins =
    { s.pins with logSite := w, logTimeout := true } := rfl
@[simp] theorem takeTimeout_dp (w : Site) : (takeTimeout w s).dp = s.dp := rfl
@[simp] theorem takeTimeout_busySync (w : Site) : (takeTimeout w s).busySync = s.busySync := rfl
@[simp] theorem takeTimeout_fbRdata (w : Site) : (takeTimeout w s).fbRdata = s.fbRdata := rfl
@[simp] theorem takeTimeout_time (w : Site) : (takeTimeout w s).time = s.time := rfl
@[simp] theorem takeTimeout_trace (w : Site) : (takeTimeout w s).trace = s.trace ++ [⟨s.time, .log w⟩] := rfl
@[simp] theorem takeTimeout_env (w : Site) : (takeTimeout w s).env = s.env := rfl
@[simp] theorem takeTimeout_draws (w : Site) : (takeTimeout w s).draws = s.draws := rfl

/-! ### setWaitOk -/

@[simp] theorem setWaitOk_params (b : Bool) : (setWaitOk b s).params = s.params := rfl
@[simp] theorem setWaitOk_seq (b : Bool) : (setWaitOk b s).seq = s.seq := rfl
@[simp] theorem setWaitOk_fb (b : Bool) : (setWaitOk b s).fb = s.fb := rfl
@[simp] theorem setWaitOk_ctl (b : Bool) : (setWaitOk b s).ctl = { s.ctl with waitOk := b } := rfl
@[simp] theorem setWaitOk_pins (b : Bool) : (setWaitOk b s).pins = s.pins := rfl
@[simp] theorem setWaitOk_dp (b : Bool) : (setWaitOk b s).dp = s.dp := rfl
@[simp] theorem setWaitOk_busySync (b : Bool) : (setWaitOk b s).busySync = s.busySync := rfl
@[simp] theorem setWaitOk_fbRdata (b : Bool) : (setWaitOk b s).fbRdata = s.fbRdata := rfl
@[simp] theorem setWaitOk_time (b : Bool) : (setWaitOk b s).time = s.time := rfl
@[simp] theorem setWaitOk_trace (b : Bool) : (setWaitOk b s).trace = s.trace := rfl
@[simp] theorem setWaitOk_env (b : Bool) : (setWaitOk b s).env = s.env := rfl
@[simp] theorem setWaitOk_draws (b : Bool) : (setWaitOk b s).draws = s.draws := rfl

/-! ### clearPulses -/

@[simp] theorem clearPulses_params : (clearPulses s).params = s.params := rfl
@[simp] theorem clearPulses_seq : (clearPulses s).seq = s.seq := rfl
@[simp] theorem clearPulses_fb : (clearPulses s).fb = s.fb := rfl
@[simp] theorem clearPulses_ctl : (clearPulses s).ctl = s.ctl := rfl
@[simp] theorem clearPulses_pins :
    (clearPulses s).pins =
    { s.pins with
      logTimeout := false
      setupAck := false
      updateAck := false
      sleepAck := false
      pxAck := false } := rfl
@[simp] theorem clearPulses_dp : (clearPulses s).dp = s.dp := rfl
@[simp] theorem clearPulses_busySync : (clearPulses s).busySync = s.busySync := rfl
@[simp] theorem clearPulses_fbRdata : (clearPulses s).fbRdata = s.fbRdata := rfl
@[simp] theorem clearPulses_time : (clearPulses s).time = s.time := rfl
@[simp] theorem clearPulses_trace : (clearPulses s).trace = s.trace := rfl
@[simp] theorem clearPulses_env : (clearPulses s).env = s.env := rfl
@[simp] theorem clearPulses_draws : (clearPulses s).draws = s.draws := rfl

/-! ### advanceSeq -/

@[simp] theorem advanceSeq_params : (advanceSeq s).params = s.params := rfl
@[simp] theorem advanceSeq_seq : (advanceSeq s).seq = seqAfter s.ctl.hasReset s.seq := rfl
@[simp] theorem advanceSeq_fb : (advanceSeq s).fb = s.fb := rfl
@[simp] theorem advanceSeq_ctl : (advanceSeq s).ctl = s.ctl := rfl
@[simp] theorem advanceSeq_pins : (advanceSeq s).pins = s.pins := rfl
@[simp] theorem advanceSeq_dp : (advanceSeq s).dp = s.dp := rfl
@[simp] theorem advanceSeq_busySync : (advanceSeq s).busySync = s.busySync := rfl
@[simp] theorem advanceSeq_fbRdata : (advanceSeq s).fbRdata = s.fbRdata := rfl
@[simp] theorem advanceSeq_time : (advanceSeq s).time = s.time := rfl
@[simp] theorem advanceSeq_trace : (advanceSeq s).trace = s.trace := rfl
@[simp] theorem advanceSeq_env : (advanceSeq s).env = s.env := rfl
@[simp] theorem advanceSeq_draws : (advanceSeq s).draws = s.draws := rfl

/-! ### startUpdate -/

@[simp] theorem startUpdate_params : (startUpdate s).params = s.params := rfl
@[simp] theorem startUpdate_seq : (startUpdate s).seq = ⟨.drawing, .dr1, true⟩ := rfl
@[simp] theorem startUpdate_fb : (startUpdate s).fb = s.fb := rfl
@[simp] theorem startUpdate_ctl : (startUpdate s).ctl = { s.ctl with updateCount := s.ctl.updateCount + 1#32 } := rfl
@[simp] theorem startUpdate_pins : (startUpdate s).pins = s.pins := rfl
@[simp] theorem startUpdate_dp : (startUpdate s).dp = s.dp := rfl
@[simp] theorem startUpdate_busySync : (startUpdate s).busySync = s.busySync := rfl
@[simp] theorem startUpdate_fbRdata : (startUpdate s).fbRdata = s.fbRdata := rfl
@[simp] theorem startUpdate_time : (startUpdate s).time = s.time := rfl
@[simp] theorem startUpdate_trace : (startUpdate s).trace = s.trace := rfl
@[simp] theorem startUpdate_env : (startUpdate s).env = s.env := rfl
@[simp] theorem startUpdate_draws : (startUpdate s).draws = s.draws := rfl

/-! ### startSleep -/

@[simp] theorem startSleep_params : (startSleep s).params = s.params := rfl
@[simp] theorem startSleep_seq : (startSleep s).seq = ⟨.sleeping, .sl1, true⟩ := rfl
@[simp] theorem startSleep_fb : (startSleep s).fb = s.fb := rfl
@[simp] theorem startSleep_ctl : (startSleep s).ctl = s.ctl := rfl
@[simp] theorem startSleep_pins : (startSleep s).pins = s.pins := rfl
@[simp] theorem startSleep_dp : (startSleep s).dp = s.dp := rfl
@[simp] theorem startSleep_busySync : (startSleep s).busySync = s.busySync := rfl
@[simp] theorem startSleep_fbRdata : (startSleep s).fbRdata = s.fbRdata := rfl
@[simp] theorem startSleep_time : (startSleep s).time = s.time := rfl
@[simp] theorem startSleep_trace : (startSleep s).trace = s.trace := rfl
@[simp] theorem startSleep_env : (startSleep s).env = s.env := rfl
@[simp] theorem startSleep_draws : (startSleep s).draws = s.draws := rfl

/-! ### startSetup -/

@[simp] theorem startSetup_params (hr hb : Bool) (n : BitVec 32) : (startSetup hr hb n s).params = s.params := rfl
@[simp] theorem startSetup_seq (hr hb : Bool) (n : BitVec 32) : (startSetup hr hb n s).seq = afterSu0 hr := rfl
@[simp] theorem startSetup_fb (hr hb : Bool) (n : BitVec 32) : (startSetup hr hb n s).fb = memFilled := rfl
@[simp] theorem startSetup_ctl (hr hb : Bool) (n : BitVec 32) :
    (startSetup hr hb n s).ctl =
    { s.ctl with hasReset := hr, hasBusy := hb, fullUpdateEvery := n, updateCount := 0#32 } := rfl
@[simp] theorem startSetup_pins (hr hb : Bool) (n : BitVec 32) : (startSetup hr hb n s).pins = s.pins := rfl
@[simp] theorem startSetup_dp (hr hb : Bool) (n : BitVec 32) :
    (startSetup hr hb n s).dp =
    { s.dp with fbAddr := BitVec.ofNat 13 (Config.fbBytes - 1) } := rfl
@[simp] theorem startSetup_busySync (hr hb : Bool) (n : BitVec 32) :
    (startSetup hr hb n s).busySync =
    s.busySync := rfl
@[simp] theorem startSetup_fbRdata (hr hb : Bool) (n : BitVec 32) : (startSetup hr hb n s).fbRdata = s.fbRdata := rfl
@[simp] theorem startSetup_time (hr hb : Bool) (n : BitVec 32) : (startSetup hr hb n s).time = s.time := rfl
@[simp] theorem startSetup_trace (hr hb : Bool) (n : BitVec 32) : (startSetup hr hb n s).trace = s.trace := rfl
@[simp] theorem startSetup_env (hr hb : Bool) (n : BitVec 32) : (startSetup hr hb n s).env = s.env := rfl
@[simp] theorem startSetup_draws (hr hb : Bool) (n : BitVec 32) : (startSetup hr hb n s).draws = s.draws := rfl

/-! ### blockReset -/

@[simp] theorem blockReset_params : (blockReset s).params = s.params := rfl
@[simp] theorem blockReset_seq : (blockReset s).seq = Seq.atReset := rfl
@[simp] theorem blockReset_fb : (blockReset s).fb = [] := rfl
@[simp] theorem blockReset_ctl : (blockReset s).ctl = Ctl.atReset := rfl
@[simp] theorem blockReset_pins : (blockReset s).pins = Pins.atReset s.params := rfl
@[simp] theorem blockReset_dp : (blockReset s).dp = Datapath.atReset := rfl
@[simp] theorem blockReset_busySync : (blockReset s).busySync = List.replicate s.params.syncStages true := rfl
@[simp] theorem blockReset_fbRdata : (blockReset s).fbRdata = s.fbRdata := rfl
@[simp] theorem blockReset_time : (blockReset s).time = s.time := rfl
@[simp] theorem blockReset_trace : (blockReset s).trace = s.trace := rfl
@[simp] theorem blockReset_env : (blockReset s).env = s.env := rfl
@[simp] theorem blockReset_draws : (blockReset s).draws = { s.draws with epoch := s.draws.epoch + 1 } := rfl

/-! ### raiseAck -/

@[simp] theorem raiseAck_params (op : HostOp) : (raiseAck op s).params = s.params := by
  cases op <;> rfl
@[simp] theorem raiseAck_seq (op : HostOp) : (raiseAck op s).seq = s.seq := by
  cases op <;> rfl
@[simp] theorem raiseAck_fb (op : HostOp) : (raiseAck op s).fb = s.fb := by
  cases op <;> rfl
@[simp] theorem raiseAck_ctl (op : HostOp) : (raiseAck op s).ctl = s.ctl := by
  cases op <;> rfl
@[simp] theorem raiseAck_dp (op : HostOp) : (raiseAck op s).dp = s.dp := by
  cases op <;> rfl
@[simp] theorem raiseAck_busySync (op : HostOp) : (raiseAck op s).busySync = s.busySync := by
  cases op <;> rfl
@[simp] theorem raiseAck_fbRdata (op : HostOp) : (raiseAck op s).fbRdata = s.fbRdata := by
  cases op <;> rfl
@[simp] theorem raiseAck_time (op : HostOp) : (raiseAck op s).time = s.time := by
  cases op <;> rfl
@[simp] theorem raiseAck_trace (op : HostOp) : (raiseAck op s).trace = s.trace := by
  cases op <;> rfl
@[simp] theorem raiseAck_env (op : HostOp) : (raiseAck op s).env = s.env := by
  cases op <;> rfl
@[simp] theorem raiseAck_draws (op : HostOp) : (raiseAck op s).draws = s.draws := by
  cases op <;> rfl

/-! ### writePixel -/

@[simp] theorem writePixel_params (x y : Coord) (on : Bool) : (writePixel x y on s).params = s.params := by
  by_cases h : inBounds x y = true <;> simp [writePixel, h]
@[simp] theorem writePixel_seq (x y : Coord) (on : Bool) : (writePixel x y on s).seq = s.seq := by
  by_cases h : inBounds x y = true <;> simp [writePixel, h]
@[simp] theorem writePixel_ctl (x y : Coord) (on : Bool) : (writePixel x y on s).ctl = s.ctl := by
  by_cases h : inBounds x y = true <;> simp [writePixel, h]
@[simp] theorem writePixel_pins (x y : Coord) (on : Bool) : (writePixel x y on s).pins = s.pins := by
  by_cases h : inBounds x y = true <;> simp [writePixel, h]
@[simp] theorem writePixel_busySync (x y : Coord) (on : Bool) : (writePixel x y on s).busySync = s.busySync := by
  by_cases h : inBounds x y = true <;> simp [writePixel, h]
@[simp] theorem writePixel_fbRdata (x y : Coord) (on : Bool) : (writePixel x y on s).fbRdata = s.fbRdata := by
  by_cases h : inBounds x y = true <;> simp [writePixel, h]
@[simp] theorem writePixel_time (x y : Coord) (on : Bool) : (writePixel x y on s).time = s.time := by
  by_cases h : inBounds x y = true <;> simp [writePixel, h]
@[simp] theorem writePixel_trace (x y : Coord) (on : Bool) : (writePixel x y on s).trace = s.trace := by
  by_cases h : inBounds x y = true <;> simp [writePixel, h]
@[simp] theorem writePixel_env (x y : Coord) (on : Bool) : (writePixel x y on s).env = s.env := by
  by_cases h : inBounds x y = true <;> simp [writePixel, h]
@[simp] theorem writePixel_draws (x y : Coord) (on : Bool) : (writePixel x y on s).draws = s.draws := by
  by_cases h : inBounds x y = true <;> simp [writePixel, h]

/-! ### readPort -/

@[simp] theorem readPort_params (a : FbAddr) : (readPort a s).params = s.params := by
  by_cases h : portValid s a = true <;> simp [readPort, h]
@[simp] theorem readPort_seq (a : FbAddr) : (readPort a s).seq = s.seq := by
  by_cases h : portValid s a = true <;> simp [readPort, h]
@[simp] theorem readPort_fb (a : FbAddr) : (readPort a s).fb = s.fb := by
  by_cases h : portValid s a = true <;> simp [readPort, h]
@[simp] theorem readPort_ctl (a : FbAddr) : (readPort a s).ctl = s.ctl := by
  by_cases h : portValid s a = true <;> simp [readPort, h]
@[simp] theorem readPort_pins (a : FbAddr) : (readPort a s).pins = s.pins := by
  by_cases h : portValid s a = true <;> simp [readPort, h]
@[simp] theorem readPort_dp (a : FbAddr) : (readPort a s).dp = s.dp := by
  by_cases h : portValid s a = true <;> simp [readPort, h]
@[simp] theorem readPort_busySync (a : FbAddr) : (readPort a s).busySync = s.busySync := by
  by_cases h : portValid s a = true <;> simp [readPort, h]
@[simp] theorem readPort_time (a : FbAddr) : (readPort a s).time = s.time := by
  by_cases h : portValid s a = true <;> simp [readPort, h]
@[simp] theorem readPort_trace (a : FbAddr) : (readPort a s).trace = s.trace := by
  by_cases h : portValid s a = true <;> simp [readPort, h]
@[simp] theorem readPort_env (a : FbAddr) : (readPort a s).env = s.env := by
  by_cases h : portValid s a = true <;> simp [readPort, h]

/-! ### nextInputs -/

@[simp] theorem nextInputs_params : (nextInputs s).params = s.params := by
  rcases h : s.env.script with _ | ⟨_, _⟩ <;> simp [nextInputs, h]
@[simp] theorem nextInputs_seq : (nextInputs s).seq = s.seq := by
  rcases h : s.env.script with _ | ⟨_, _⟩ <;> simp [nextInputs, h]
@[simp] theorem nextInputs_fb : (nextInputs s).fb = s.fb := by
  rcases h : s.env.script with _ | ⟨_, _⟩ <;> simp [nextInputs, h]
@[simp] theorem nextInputs_ctl : (nextInputs s).ctl = s.ctl := by
  rcases h : s.env.script with _ | ⟨_, _⟩ <;> simp [nextInputs, h]
@[simp] theorem nextInputs_pins : (nextInputs s).pins = s.pins := by
  rcases h : s.env.script with _ | ⟨_, _⟩ <;> simp [nextInputs, h]
@[simp] theorem nextInputs_dp : (nextInputs s).dp = s.dp := by
  rcases h : s.env.script with _ | ⟨_, _⟩ <;> simp [nextInputs, h]
@[simp] theorem nextInputs_busySync : (nextInputs s).busySync = s.busySync := by
  rcases h : s.env.script with _ | ⟨_, _⟩ <;> simp [nextInputs, h]
@[simp] theorem nextInputs_fbRdata : (nextInputs s).fbRdata = s.fbRdata := by
  rcases h : s.env.script with _ | ⟨_, _⟩ <;> simp [nextInputs, h]
@[simp] theorem nextInputs_time : (nextInputs s).time = s.time := by
  rcases h : s.env.script with _ | ⟨_, _⟩ <;> simp [nextInputs, h]
@[simp] theorem nextInputs_trace : (nextInputs s).trace = s.trace := by
  rcases h : s.env.script with _ | ⟨_, _⟩ <;> simp [nextInputs, h]
@[simp] theorem nextInputs_draws : (nextInputs s).draws = s.draws := by
  rcases h : s.env.script with _ | ⟨_, _⟩ <;> simp [nextInputs, h]

/-! ### clockEdges -/

@[simp] theorem clockEdges_params (n : Nat) : (clockEdges n s).params = s.params := by
  induction n generalizing s with
  | zero => rfl
  | succ n ih => exact ih _
@[simp] theorem clockEdges_seq (n : Nat) : (clockEdges n s).seq = s.seq := by
  induction n generalizing s with
  | zero => rfl
  | succ n ih => exact ih _
@[simp] theorem clockEdges_fb (n : Nat) : (clockEdges n s).fb = s.fb := by
  induction n generalizing s with
  | zero => rfl
  | succ n ih => exact ih _
@[simp] theorem clockEdges_ctl (n : Nat) : (clockEdges n s).ctl = s.ctl := by
  induction n generalizing s with
  | zero => rfl
  | succ n ih => exact ih _
@[simp] theorem clockEdges_pins (n : Nat) : (clockEdges n s).pins = s.pins := by
  induction n generalizing s with
  | zero => rfl
  | succ n ih => exact ih _
@[simp] theorem clockEdges_dp (n : Nat) : (clockEdges n s).dp = s.dp := by
  induction n generalizing s with
  | zero => rfl
  | succ n ih => exact ih _
@[simp] theorem clockEdges_fbRdata (n : Nat) : (clockEdges n s).fbRdata = s.fbRdata := by
  induction n generalizing s with
  | zero => rfl
  | succ n ih => exact ih _
@[simp] theorem clockEdges_time (n : Nat) : (clockEdges n s).time = s.time := by
  induction n generalizing s with
  | zero => rfl
  | succ n ih => exact ih _
@[simp] theorem clockEdges_trace (n : Nat) : (clockEdges n s).trace = s.trace := by
  induction n generalizing s with
  | zero => rfl
  | succ n ih => exact ih _
@[simp] theorem clockEdges_inputs (n : Nat) : (clockEdges n s).env.inputs = s.env.inputs := by
  induction n generalizing s with
  | zero => rfl
  | succ n ih => exact ih _
@[simp] theorem clockEdges_script (n : Nat) : (clockEdges n s).env.script = s.env.script := by
  induction n generalizing s with
  | zero => rfl
  | succ n ih => exact ih _
@[simp] theorem clockEdges_busyIn (n : Nat) : (clockEdges n s).env.busyIn = s.env.busyIn := by
  induction n generalizing s with
  | zero => rfl
  | succ n ih => exact ih _
@[simp] theorem clockEdges_sampleIx (n : Nat) : (clockEdges n s).draws.sampleIx = s.draws.sampleIx := by
  induction n generalizing s with
  | zero => rfl
  | succ n ih => exact ih _
@[simp] theorem clockEdges_portIx (n : Nat) : (clockEdges n s).draws.portIx = s.draws.portIx := by
  induction n generalizing s with
  | zero => rfl
  | succ n ih => exact ih _
@[simp] theorem clockEdges_epoch (n : Nat) : (clockEdges n s).draws.epoch = s.draws.epoch := by
  induction n generalizing s with
  | zero => rfl
  | succ n ih => exact ih _

/-! ### endStep -/

@[simp] theorem endStep_params (n : Nat) : (endStep n s).params = s.params := by simp [endStep]
@[simp] theorem endStep_seq (n : Nat) : (endStep n s).seq = s.seq := by simp [endStep]
@[simp] theorem endStep_fb (n : Nat) : (endStep n s).fb = s.fb := by simp [endStep]
@[simp] theorem endStep_ctl (n : Nat) : (endStep n s).ctl = s.ctl := by simp [endStep]
@[simp] theorem endStep_pins (n : Nat) : (endStep n s).pins = s.pins := by simp [endStep]
@[simp] theorem endStep_dp (n : Nat) : (endStep n s).dp = s.dp := by simp [endStep]
@[simp] theorem endStep_time (n : Nat) : (endStep n s).time = s.time := by simp [endStep]
@[simp] theorem endStep_trace (n : Nat) : (endStep n s).trace = s.trace := by simp [endStep]

/-! ### The conditional parts, case by case -/

theorem writePixel_out {x y : Coord} {on : Bool} (h : inBounds x y = false) : writePixel x y on s = s := by
  simp [writePixel, h]

theorem writePixel_fb_in {x y : Coord} {on : Bool} (h : inBounds x y = true) :
    (writePixel x y on s).fb =
      memWrite s.fb (pixelIndex x y) (paintByte (fbByte s (pixelIndex x y)) x on) := by
  simp [writePixel, h]

theorem writePixel_dp_in {x y : Coord} {on : Bool} (h : inBounds x y = true) :
    (writePixel x y on s).dp = { s.dp with fbAddr := BitVec.ofNat 13 (pixelIndex x y) } := by
  simp [writePixel, h]

theorem readPort_valid {a : FbAddr} (h : portValid s a = true) :
    readPort a s = { s with fbRdata := fbByte s a.toNat } := by
  simp [readPort, h]

theorem readPort_invalid {a : FbAddr} (h : portValid s a = false) :
    readPort a s = { s with fbRdata := Config.portByte s.draws.portIx, draws.portIx := s.draws.portIx + 1 } := by
  simp [readPort, h]

theorem nextInputs_empty (h : s.env.script = []) : nextInputs s = s := by simp [nextInputs, h]

theorem nextInputs_cons {i : Inputs} {rest : List Inputs} (h : s.env.script = i :: rest) :
    nextInputs s = { s with env.inputs := i, env.script := rest } := by
  simp [nextInputs, h]

end Sys2Proof.Machine
end

