-- ==== Sys2Proof/Laws/Memory.lean ====
section
/-! SUPPORT. The laws of the frame buffer's memory operations: a read after a write, every other byte left alone, the
canonical form kept. -/

namespace Sys2Proof.Machine

@[simp] theorem memRead_nil (a : Nat) : memRead [] a = none := rfl

/-- A read answers the value written last. -/
@[simp] theorem memRead_memWrite_same (m : List Host.Cell) (a : Nat) (v : Byte) :
    memRead (memWrite m a v) a = some v := by
  induction m with
  | nil => simp [memWrite, memRead]
  | cons c rest ih =>
    obtain ⟨b, u⟩ := c
    by_cases h1 : a < b
    · simp [memWrite, h1, memRead]
    · by_cases h2 : a = b
      · simp [memWrite, h2, memRead]
      · simp [memWrite, h1, h2, memRead, Ne.symm h2, ih]

/-- A write leaves every other byte alone. -/
theorem memRead_memWrite_other (m : List Host.Cell) {a b : Nat} (v : Byte) (h : b ≠ a) :
    memRead (memWrite m a v) b = memRead m b := by
  induction m with
  | nil => simp [memWrite, memRead, Ne.symm h]
  | cons c rest ih =>
    obtain ⟨d, u⟩ := c
    by_cases h1 : a < d
    · simp [memWrite, h1, memRead, Ne.symm h]
    · by_cases h2 : a = d
      · subst h2; simp [memWrite, memRead, Ne.symm h]
      · simp [memWrite, h1, h2, memRead, ih]

/-- The canonical form, said of a list and its head. -/
theorem memWf_cons {c : Host.Cell} {m : List Host.Cell} :
    memWf (c :: m) = true ↔ ((∀ d ∈ m, c.1 < d.1) ∧ c.1 < Config.fbBytes ∧ memWf m = true) := by
  simp [memWf]; tauto

/-- The cells of a write are the cell written and cells that were there. -/
theorem mem_of_mem_memWrite {m : List Host.Cell} {a : Nat} {v : Byte} {d : Host.Cell} (h : d ∈ memWrite m a v) :
    d = (a, v) ∨ d ∈ m := by
  induction m with
  | nil => simpa [memWrite] using h
  | cons c rest ih =>
    obtain ⟨b, u⟩ := c
    by_cases h1 : a < b
    · simpa [memWrite, h1] using h
    · by_cases h2 : a = b
      · rw [memWrite, if_neg h1, if_pos h2, List.mem_cons] at h
        exact h.imp_right (List.mem_cons_of_mem _)
      · rw [memWrite, if_neg h1, if_neg h2, List.mem_cons] at h
        rcases h with h | h
        · exact .inr (h ▸ List.mem_cons_self)
        · exact (ih h).imp_right (List.mem_cons_of_mem _)

/-- A write keeps the canonical form. -/
theorem memWf_memWrite {m : List Host.Cell} {a : Nat} {v : Byte} (hm : memWf m = true) (ha : a < Config.fbBytes) :
    memWf (memWrite m a v) = true := by
  induction m with
  | nil => simp [memWrite, memWf, ha]
  | cons c rest ih =>
    obtain ⟨b, u⟩ := c
    obtain ⟨hlt, hb, hr⟩ := memWf_cons.mp hm
    by_cases h1 : a < b
    · rw [memWrite, if_pos h1]
      refine memWf_cons.mpr ⟨fun d hd => ?_, ha, hm⟩
      rcases List.mem_cons.mp hd with rfl | hd
      · exact h1
      · exact h1.trans (hlt d hd)
    · by_cases h2 : a = b
      · rw [memWrite, if_neg h1, if_pos h2]
        exact memWf_cons.mpr ⟨fun d hd => h2 ▸ hlt d hd, ha, hr⟩
      · rw [memWrite, if_neg h1, if_neg h2]
        refine memWf_cons.mpr ⟨fun d hd => ?_, hb, ih hr⟩
        rcases mem_of_mem_memWrite hd with rfl | hd
        · show b < a
          omega
        · exact hlt d hd

/-- A consecutive run of bytes, read inside and outside. -/
theorem memRead_run (n start a : Nat) (v : Byte) :
    memRead ((List.range' start n).map fun x => (x, v)) a = if start ≤ a ∧ a < start + n then some v else none := by
  induction n generalizing start with
  | zero => simp
  | succ n ih =>
    rw [List.range'_succ, List.map_cons, memRead]
    by_cases h : start = a
    · simp [h]
    · rw [if_neg h, ih]
      have : (start + 1 ≤ a ∧ a < start + 1 + n) ↔ (start ≤ a ∧ a < start + (n + 1)) := by omega
      simp only [this]

/-- FILL: every byte of FB is 0xFF (R123). -/
theorem memRead_memFilled (a : Nat) : memRead memFilled a = if a < Config.fbBytes then some 0xFF#8 else none := by
  simpa [memFilled] using memRead_run Config.fbBytes 0 a 0xFF#8

/-- The filled buffer is in canonical form. -/
theorem memWf_memFilled : memWf memFilled = true := by
  have h : memFilled.Pairwise (fun c d => c.1 < d.1) := by
    unfold memFilled
    exact List.pairwise_map.mpr (by simpa using List.pairwise_lt_range')
  simp only [memWf, Bool.and_eq_true, decide_eq_true_eq, List.all_eq_true]
  refine ⟨h, fun c hc => ?_⟩
  obtain ⟨x, hx, rfl⟩ := List.mem_map.mp hc
  simpa using hx

/-- The empty buffer is in canonical form. -/
theorem memWf_nil : memWf [] = true := by decide

/-- The buffer after reset is in canonical form. -/
theorem memWf_reset : memWf State.reset.fb = true := by decide

/-- A byte with a value reads as it. -/
theorem fbByte_of_memRead {s : State} {a : Nat} {v : Byte} (h : memRead s.fb a = some v) : fbByte s a = v := by
  simp [fbByte, h]

/-- `fbByte` looks at FB and the reset count only. -/
theorem fbByte_congr {s t : State} (hf : t.fb = s.fb) (he : t.draws.epoch = s.draws.epoch) (a : Nat) :
    fbByte t a = fbByte s a := by
  simp [fbByte, hf, he]

/-- The bounds test is on the signed coordinates (R71, R121). -/
theorem inBounds_iff {x y : Coord} :
    inBounds x y = true ↔ (0 ≤ x.toInt ∧ x.toInt < 152) ∧ 0 ≤ y.toInt ∧ y.toInt < 296 := by
  simp only [inBounds, Bool.and_eq_true, decide_eq_true_eq]
  simp [Config.width, Config.height, and_assoc]

/-- Coordinates in bounds are their own unsigned readings. -/
theorem inBounds_toNat {x y : Coord} : inBounds x y = true ↔ x.toNat < 152 ∧ y.toNat < 296 := by
  rw [inBounds_iff]
  have hx := x.isLt
  have hy := y.isLt
  rw [BitVec.toInt_eq_toNat_cond, BitVec.toInt_eq_toNat_cond]
  split_ifs <;> omega

/-- The byte index of a pixel in bounds is an address of FB (R61). -/
theorem pixelIndex_lt {x y : Coord} (h : inBounds x y = true) : pixelIndex x y < Config.fbBytes := by
  have := inBounds_toNat.mp h
  simp only [pixelIndex, Config.width, Config.fbBytes]
  omega

/-- Every access of the pixel write keeps the canonical form. -/
theorem memWf_writePixel {s : State} (x y : Coord) (on : Bool) (h : memWf s.fb = true) :
    memWf (writePixel x y on s).fb = true := by
  by_cases hb : inBounds x y = true
  · rw [writePixel_fb_in s hb]
    exact memWf_memWrite h (pixelIndex_lt hb)
  · rw [writePixel_out s (by simpa using hb)]
    exact h

end Sys2Proof.Machine
end

