-- ==== Sys2Proof/Laws/Micro.lean ====
section
/-! SUPPORT. What lists of micro-operations do: composition, what no action touches, the closed forms of the send
primitives, of DELAY and of the poll loop. -/

namespace Sys2Proof.Machine

/-! ### Composition -/

@[simp] theorem runMicros_nil (s : State) : runMicros [] s = s := rfl

@[simp] theorem runMicros_cons (m : Micro) (ms : List Micro) (s : State) :
    runMicros (m :: ms) s = runMicros ms (runMicro m s) := rfl

@[simp] theorem runMicros_append (ms ns : List Micro) (s : State) :
    runMicros (ms ++ ns) s = runMicros ns (runMicros ms s) := by
  induction ms generalizing s with
  | nil => rfl
  | cons m ms ih => exact ih _

/-! ### What no action touches -/

@[simp] theorem runMicro_params (m : Micro) (s : State) : (runMicro m s).params = s.params := by cases m <;> rfl
@[simp] theorem runMicro_seq (m : Micro) (s : State) : (runMicro m s).seq = s.seq := by cases m <;> rfl
@[simp] theorem runMicro_fbRdata (m : Micro) (s : State) : (runMicro m s).fbRdata = s.fbRdata := by cases m <;> rfl
@[simp] theorem runMicro_inputs (m : Micro) (s : State) : (runMicro m s).env.inputs = s.env.inputs := by cases m <;> rfl
@[simp] theorem runMicro_script (m : Micro) (s : State) : (runMicro m s).env.script = s.env.script := by cases m <;> rfl
@[simp] theorem runMicro_lineIn (m : Micro) (s : State) : (runMicro m s).env.lineIn = s.env.lineIn := by cases m <;> rfl
@[simp] theorem runMicro_edgeIx (m : Micro) (s : State) : (runMicro m s).draws.edgeIx = s.draws.edgeIx := by cases m <;> rfl
@[simp] theorem runMicro_epoch (m : Micro) (s : State) : (runMicro m s).draws.epoch = s.draws.epoch := by cases m <;> rfl
@[simp] theorem runMicro_portIx (m : Micro) (s : State) : (runMicro m s).draws.portIx = s.draws.portIx := by
  cases m <;> rfl
@[simp] theorem runMicro_hasBusy (m : Micro) (s : State) : (runMicro m s).ctl.hasBusy = s.ctl.hasBusy := by
  cases m <;> rfl
@[simp] theorem runMicro_hasReset (m : Micro) (s : State) : (runMicro m s).ctl.hasReset = s.ctl.hasReset := by
  cases m <;> rfl
@[simp] theorem runMicro_updateCount (m : Micro) (s : State) : (runMicro m s).ctl.updateCount = s.ctl.updateCount := by
  cases m <;> rfl
@[simp] theorem runMicro_fullUpdateEvery (m : Micro) (s : State) :
    (runMicro m s).ctl.fullUpdateEvery = s.ctl.fullUpdateEvery := by
  cases m <;> rfl

/-- Of the actions, FILL alone writes FB (R24). -/
theorem runMicro_fb {m : Micro} (h : m ≠ .fill) (s : State) : (runMicro m s).fb = s.fb := by
  cases m <;> first | rfl | exact absurd rfl h

@[simp] theorem runMicros_params (ms : List Micro) (s : State) : (runMicros ms s).params = s.params := by
  induction ms generalizing s with
  | nil => rfl
  | cons m ms ih => simp [ih]

@[simp] theorem runMicros_seq (ms : List Micro) (s : State) : (runMicros ms s).seq = s.seq := by
  induction ms generalizing s with
  | nil => rfl
  | cons m ms ih => simp [ih]

@[simp] theorem runMicros_fbRdata (ms : List Micro) (s : State) : (runMicros ms s).fbRdata = s.fbRdata := by
  induction ms generalizing s with
  | nil => rfl
  | cons m ms ih => simp [ih]

@[simp] theorem runMicros_inputs (ms : List Micro) (s : State) : (runMicros ms s).env.inputs = s.env.inputs := by
  induction ms generalizing s with
  | nil => rfl
  | cons m ms ih => simp [ih]

@[simp] theorem runMicros_script (ms : List Micro) (s : State) : (runMicros ms s).env.script = s.env.script := by
  induction ms generalizing s with
  | nil => rfl
  | cons m ms ih => simp [ih]

@[simp] theorem runMicros_lineIn (ms : List Micro) (s : State) : (runMicros ms s).env.lineIn = s.env.lineIn := by
  induction ms generalizing s with
  | nil => rfl
  | cons m ms ih => simp [ih]

@[simp] theorem runMicros_edgeIx (ms : List Micro) (s : State) : (runMicros ms s).draws.edgeIx = s.draws.edgeIx := by
  induction ms generalizing s with
  | nil => rfl
  | cons m ms ih => simp [ih]

@[simp] theorem runMicros_epoch (ms : List Micro) (s : State) : (runMicros ms s).draws.epoch = s.draws.epoch := by
  induction ms generalizing s with
  | nil => rfl
  | cons m ms ih => simp [ih]

@[simp] theorem runMicros_hasBusy (ms : List Micro) (s : State) : (runMicros ms s).ctl.hasBusy = s.ctl.hasBusy := by
  induction ms generalizing s with
  | nil => rfl
  | cons m ms ih => simp [ih]

@[simp] theorem runMicros_hasReset (ms : List Micro) (s : State) : (runMicros ms s).ctl.hasReset = s.ctl.hasReset := by
  induction ms generalizing s with
  | nil => rfl
  | cons m ms ih => simp [ih]

@[simp] theorem runMicros_updateCount (ms : List Micro) (s : State) :
    (runMicros ms s).ctl.updateCount = s.ctl.updateCount := by
  induction ms generalizing s with
  | nil => rfl
  | cons m ms ih => simp [ih]

@[simp] theorem runMicros_fullUpdateEvery (ms : List Micro) (s : State) :
    (runMicros ms s).ctl.fullUpdateEvery = s.ctl.fullUpdateEvery := by
  induction ms generalizing s with
  | nil => rfl
  | cons m ms ih => simp [ih]

theorem runMicros_fb {ms : List Micro} (h : Micro.fill ∉ ms) (s : State) : (runMicros ms s).fb = s.fb := by
  induction ms generalizing s with
  | nil => rfl
  | cons m ms ih =>
    rw [List.mem_cons, not_or] at h
    rw [runMicros_cons, ih h.2, runMicro_fb (Ne.symm h.1)]

/-- An action appends at most one event, stamped with the time it happens at. -/
theorem runMicro_trace (m : Micro) (s : State) :
    ∃ es, (runMicro m s).trace = s.trace ++ stampAll s.time es ∧ es.length ≤ 1 := by
  cases m <;> first
    | exact ⟨[], (List.append_nil _).symm, by simp⟩
    | exact ⟨[_], rfl, by simp⟩

/-- Events already emitted stay (R143, R283). -/
theorem runMicros_trace_prefix (ms : List Micro) (s : State) : s.trace <+: (runMicros ms s).trace := by
  induction ms generalizing s with
  | nil => exact List.prefix_rfl
  | cons m ms ih =>
    obtain ⟨es, h, -⟩ := runMicro_trace m s
    exact (h ▸ List.prefix_append _ _).trans (ih _)

/-- Model time never runs back. -/
theorem runMicros_time_le (ms : List Micro) (s : State) : s.time ≤ (runMicros ms s).time := by
  induction ms generalizing s with
  | nil => exact le_rfl
  | cons m ms ih =>
    have : s.time ≤ (runMicro m s).time := by cases m <;> simp [runMicro]
    exact this.trans (ih _)

/-! ### The send primitives -/

/-- The state after bus traffic: the events `es` at the current time, the mode line at `m`, deselected, `b` the last
byte. -/
def afterBus (m : BusMode) (b : Byte) (es : List Event) (s : State) : State :=
  { s with
    trace := s.trace ++ stampAll s.time es
    pins.dcOut := modeLevel s.params m
    pins.csOut := !s.params.csActiveLevel
    pins.txByte := b
    pins.txValid := false }

/-- Bus traffic after bus traffic. -/
theorem afterBus_afterBus (m m' : BusMode) (b b' : Byte) (es es' : List Event) (s : State) :
    afterBus m b es (afterBus m' b' es' s) = afterBus m b (es' ++ es) s := by
  simp [afterBus, stampAll, List.append_assoc]

/-- SEND_CMD (R140). -/
theorem runMicros_cmd (op : Byte) (s : State) : runMicros (cmdMicros op) s = afterBus .cmd op (cmdFrame op) s := by
  simp [cmdMicros, xferMicros, runMicro, setMode, setSel, offerByte, takeByte, emit, afterBus, cmdFrame, stampAll,
    modeLevel, selLevel]

/-- SEND_DATA (R141). -/
theorem runMicros_data (b : Byte) (s : State) : runMicros (dataMicros b) s = afterBus .data b (dataFrame b) s := by
  simp [dataMicros, xferMicros, runMicro, setMode, setSel, offerByte, takeByte, emit, afterBus, dataFrame, stampAll,
    modeLevel, selLevel]

/-- Data frames one after another, after traffic in any mode. -/
theorem runMicros_dataFrames (bs : List Byte) (b : Byte) (m : BusMode) (c : Byte) (es : List Event) (s : State) :
    runMicros ((bs ++ [b]).flatMap dataMicros) (afterBus m c es s) =
      afterBus .data b (es ++ (bs ++ [b]).flatMap dataFrame) s := by
  induction bs generalizing m c es with
  | nil => simp [runMicros_data, afterBus_afterBus]
  | cons d bs ih =>
    rw [List.cons_append, List.flatMap_cons, runMicros_append, runMicros_data, afterBus_afterBus, ih,
      List.flatMap_cons, List.append_assoc]

/-- A panel command with parameter bytes: its command frame and a data frame for each byte (R102). -/
theorem runMicros_paramCmd (op : Byte) (bs : List Byte) (b : Byte) (s : State) :
    runMicros (paramCmdMicros op (bs ++ [b])) s =
      afterBus .data b (cmdFrame op ++ (bs ++ [b]).flatMap dataFrame) s := by
  rw [paramCmdMicros, runMicros_append, runMicros_cmd, runMicros_dataFrames]

/-- A panel command without data bytes. -/
theorem runMicros_paramCmd_nil (op : Byte) (s : State) :
    runMicros (paramCmdMicros op []) s = afterBus .cmd op (cmdFrame op) s := by
  rw [paramCmdMicros, List.flatMap_nil, List.append_nil, runMicros_cmd]

/-- The `Xfer` events of a byte sequence (R142): nothing but the bytes. -/
theorem runMicros_xfers (bs : List Byte) (b : Byte) (s : State) :
    runMicros ((bs ++ [b]).flatMap xferMicros) s =
      { s with
        trace := s.trace ++ stampAll s.time ((bs ++ [b]).map .xfer)
        pins.txByte := b
        pins.txValid := false } := by
  induction bs generalizing s with
  | nil => simp [xferMicros, runMicro, offerByte, takeByte, emit, stampAll]
  | cons d bs ih =>
    rw [List.cons_append, List.flatMap_cons, runMicros_append, ih]
    simp [xferMicros, runMicro, offerByte, takeByte, emit, stampAll]

/-- SEND_BLOCK of a byte sequence (R142). -/
theorem runMicros_block_bytes (bs : List Byte) (b : Byte) (s : State) :
    runMicros (blockMicros (.bytes (bs ++ [b]))) s = afterBus .data b (blockFrame (bs ++ [b])) s := by
  simp only [blockMicros, blockXfers, runMicros_append, runMicros_xfers]
  simp [runMicro, setMode, setSel, emit, afterBus, blockFrame, stampAll, modeLevel, selLevel]

/-- One byte of ROW_FETCH and its `Xfer` (R126). -/
theorem runMicros_fetch_take (j i : Nat) (s : State) :
    runMicros [.fetch j i, .take] s =
      { s with
        trace := s.trace ++ stampAll s.time [.xfer (fbByte s (rowFetchAddr j i))]
        pins.txByte := fbByte s (rowFetchAddr j i)
        pins.txValid := false
        dp.rowCnt := BitVec.ofNat 9 j
        dp.colCnt := BitVec.ofNat 5 i
        dp.fbAddr := BitVec.ofNat 13 (rowFetchAddr j i) } := by
  simp [runMicro, rowFetch, offerByte, takeByte, emit, stampAll]

/-! ### DELAY -/

/-- Milliseconds pass. -/
theorem runMicros_ticks (n : Nat) (s : State) :
    runMicros (List.replicate n .tick) { s with dp.tickDiv := 0 } =
      { s with time := s.time + n, dp.delayCnt := s.dp.delayCnt - BitVec.ofNat 8 n, dp.tickDiv := 0 } := by
  induction n generalizing s with
  | zero => simp
  | succ n ih =>
    rw [List.replicate_succ, runMicros_cons]
    have h := ih { s with time := s.time + 1, dp.delayCnt := s.dp.delayCnt - 1#8 }
    have e : s.dp.delayCnt - 1#8 - BitVec.ofNat 8 n = s.dp.delayCnt - BitVec.ofNat 8 (n + 1) := by
      have : BitVec.ofNat 8 (n + 1) = BitVec.ofNat 8 n + 1#8 := by simp [BitVec.ofNat_add]
      rw [this, BitVec.sub_sub, BitVec.add_comm]
    simp only [e, Nat.add_assoc, Nat.add_comm 1 n] at h
    exact h

/-- DELAY (R220): exactly `n` milliseconds, and nothing but its counters. -/
theorem runMicros_delay (n : BitVec 8) (s : State) :
    runMicros (delayMicros n) s =
      { s with time := s.time + n.toNat, dp.delayCnt := 0#8, dp.tickDiv := 0 } := by
  have h := runMicros_ticks n.toNat { s with dp.delayCnt := n }
  simpa [delayMicros, runMicro, startDelay] using h

/-! ### The poll loop -/

/-- The part of the state a wait in progress has moved on by `k` polls: the samples drawn, ELAPSED, time, the delay
counter at rest. -/
def afterPolls (k : Nat) (s : State) : State :=
  { s with
    busySync := if k = 0 then s.busySync else syncAfter s.params.syncStages (s.draws.sampleIx + (k - 1)) true
    env.busyIn := s.env.busyIn.drop k
    draws.sampleIx := s.draws.sampleIx + k
    time := s.time + 100 * k
    dp.elapsed := s.dp.elapsed + BitVec.ofNat 15 (100 * k)
    dp.delayCnt := if k = 0 then s.dp.delayCnt else 0#8
    dp.tickDiv := if k = 0 then s.dp.tickDiv else 0 }

/-- One poll that reads busy before the deadline (R213): a sample, 100 ms, ELAPSED up by 100. -/
theorem runMicros_poll (s : State) (k : Nat) :
    runMicros ([.sample true] ++ delayMicros 100#8 ++ [.addElapsed]) (afterPolls k s) = afterPolls (k + 1) s := by
  simp only [runMicros_append, runMicros_delay, runMicros_cons, runMicros_nil, runMicro]
  have e : s.dp.elapsed + BitVec.ofNat 15 (100 * k) + BitVec.ofNat 15 100 = s.dp.elapsed + BitVec.ofNat 15 (100 * (k + 1)) := by
    rw [BitVec.add_assoc, ← BitVec.ofNat_add, Nat.mul_succ]
  simp [takeSample, addElapsed, afterPolls, Config.pollMs, e, Nat.mul_add, Nat.add_assoc]

/-- A wait whose first `k` samples read busy before the deadline, its loop unrolled that far. -/
theorem runMicros_waitLoop_busy (w : Site) (line : Nat → Bool) (s : State) (k fuel : Nat)
    (hk : 100 * k ≤ 20000) (hb : ∀ j < k, line j = true) :
    runMicros (waitLoop w line (fuel + k) 0 0) s =
      runMicros (waitLoop w line fuel k (100 * k)) (afterPolls k s) := by
  induction k generalizing fuel with
  | zero => simp [afterPolls]
  | succ k ih =>
    have h := ih (fuel + 1) (by omega) (fun j hj => hb j (by omega))
    rw [show fuel + (k + 1) = fuel + 1 + k by omega, h, waitLoop, hb k (by omega), if_neg (by decide),
      if_neg (by simp only [Config.timeoutMs]; omega)]
    show runMicros _ _ = _
    rw [show (Micro.sample true ::
          (delayMicros (BitVec.ofNat 8 Config.pollMs) ++
            Micro.addElapsed :: waitLoop w line fuel (k + 1) (100 * k + Config.pollMs))) =
        ([.sample true] ++ delayMicros 100#8 ++ [.addElapsed]) ++ waitLoop w line fuel (k + 1) (100 * (k + 1)) by
      simp [Config.pollMs, Nat.mul_succ]]
    rw [runMicros_append, runMicros_poll]

end Sys2Proof.Machine
end

