-- ==== Sys2Proof/Laws/Step.lean ====
section
/-! SUPPORT. What a step can do, said once: every instruction answers a next state, the sequencer's instructions run their
lists of actions, and a step is one of a block reset, a cut, a sequencer step, an accepted request, or the read port
alone. -/

namespace Sys2Proof.Machine

/-! ### Outcomes -/

@[simp] theorem mapNext_next (f : State → State) (s : State) : mapNext f (.next s) = .next (f s) := rfl

theorem mapNext_eq_next {f : State → State} {o : Host.Outcome State Fault Refusal} {t : State}
    (h : mapNext f o = .next t) : ∃ u, o = .next u ∧ t = f u := by
  cases o with
  | next u => exact ⟨u, rfl, by simpa using h.symm⟩
  | fault r => cases h
  | refused r => cases h

/-- Every instruction answers a next state, in every state (R250). -/
theorem exec_next (i : Instr) (s : State) : ∃ t, exec i s = .next t := by
  cases i with
  | setPixel x y on => simp only [exec, execSetPixel]; split <;> exact ⟨_, rfl⟩
  | update => simp only [exec, execUpdate]; split <;> exact ⟨_, rfl⟩
  | sleep => simp only [exec, execSleep]; split <;> exact ⟨_, rfl⟩
  | setup hr hb n => simp only [exec, execSetup]; split <;> exact ⟨_, rfl⟩
  | _ => exact ⟨_, rfl⟩

/-- The action at a label runs its list of micro-operations. -/
theorem runAction_eq_micros {l : Label} {act : SeqAction} (h : labelAction l = some act) (s : State) :
    runAction act s = .next (runMicros (actionMicros act s) s) := by
  cases l <;> simp only [labelAction, Option.some.injEq, reduceCtorEq] at h <;> subst h <;> rfl

/-- Only FILL's label writes FB. -/
theorem fill_not_mem_actionMicros {l : Label} {act : SeqAction} (h : labelAction l = some act) (hl : l ≠ .su0)
    (s : State) : Micro.fill ∉ actionMicros act s := by
  have loop : ∀ w line fuel k el, Micro.fill ∉ waitLoop w line fuel k el := by
    intro w line fuel
    induction fuel with
    | zero => intro k el; simp [waitLoop]
    | succ fuel ih =>
      intro k el
      rw [waitLoop]
      split_ifs <;> simp [delayMicros, ih]
  have wait : ∀ w, Micro.fill ∉ waitMicros w s := by
    intro w
    rw [waitMicros]
    split_ifs <;> simp [loop]
  cases l <;> simp only [labelAction, Option.some.injEq, reduceCtorEq] at h <;> subst h <;>
    first
      | exact wait _
      | exact absurd rfl hl
      | simp [actionMicros, microsOf, delayMicros, resetPulseMicros, swresetMicros, dataEntryModeMicros, setXRangeMicros,
          setYRangeMicros, setXCounterMicros, setYCounterMicros, writeRamMicros, activateMicros, deepSleepMicros,
          paramCmdMicros, cmdMicros, dataMicros, xferMicros, blockMicros, blockXfers, fieldBytes]

/-! ### Requests -/

/-- What `selectRequest` can answer: a request whose line is high and whose operation is legal, with no line of higher
priority both high and legal (R235). -/
theorem selectRequest_cases {legal : HostOp → Bool} {r : Request} {i : Instr} (h : selectRequest legal r = some i) :
    (i = .setPixel r.pxX r.pxY r.pxOn ∧ r.pxWe = true ∧ legal .setPixel = true) ∨
    (i = .update ∧ r.updateReq = true ∧ legal .update = true ∧ (r.pxWe && legal .setPixel) = false) ∨
    (i = .sleep ∧ r.sleepReq = true ∧ legal .sleep = true ∧ (r.pxWe && legal .setPixel) = false ∧
      (r.updateReq && legal .update) = false) ∨
    (i = .setup r.cfgHasReset r.cfgHasBusy r.cfgFullUpdateEvery ∧ r.setupReq = true ∧ legal .setup = true ∧
      (r.pxWe && legal .setPixel) = false ∧ (r.updateReq && legal .update) = false ∧
      (r.sleepReq && legal .sleep) = false) := by
  unfold selectRequest at h
  split_ifs at h with h1 h2 h3 h4 <;> simp_all

/-- A request is selected only where the block accepts it. -/
theorem accepts_true {s : State} {op : HostOp} :
    accepts s op = true ↔ s.seq.busy = false ∧ s.env.inputs.rst ≠ .high ∧ legalIn s.seq.stage op = true := by
  simp [accepts, and_assoc]

@[simp] theorem accepts_clearPulses (s : State) (op : HostOp) : accepts (clearPulses s) op = accepts s op := rfl

@[simp] theorem arbitrate_clearPulses (s : State) : arbitrate (clearPulses s) = arbitrate s := rfl

@[simp] theorem fetch_clearPulses (s : State) : fetch (clearPulses s) = fetch s := rfl

/-! ### The step -/

/-- Everything a step that answers a next state can be. -/
theorem step_cases {s t : State} (h : step s = .next t) :
    (s.env.inputs.rst ≠ .low ∧ ∃ u, t = endStep 0 (blockReset u) ∧
      (u = s ∨ ∃ k act, s.env.inputs.rst = .during k ∧ s.seq.busy = true ∧ labelAction s.seq.label = some act ∧
        u = runMicros ((actionMicros act (clearPulses s)).take k) (clearPulses s))) ∨
    (s.env.inputs.rst = .low ∧ s.seq.busy = true ∧ ∃ act, labelAction s.seq.label = some act ∧
      t = endStep s.params.syncStages (advanceSeq (runMicros (actionMicros act (clearPulses s)) (clearPulses s)))) ∨
    (s.env.inputs.rst ≠ .high ∧ s.seq.busy = false ∧
      ((∃ i u, arbitrate s = some i ∧ exec i (clearPulses s) = .next u ∧
        t = endStep (edgesOf i s.params) u) ∨
        (arbitrate s = none ∧ t = endStep 1 (clearPulses s)))) := by
  have run : ∀ {t}, runStep s = .next t → s.seq.busy = false →
      ((∃ i u, arbitrate s = some i ∧ exec i (clearPulses s) = .next u ∧
        t = endStep (edgesOf i s.params) u) ∨
        (arbitrate s = none ∧ t = endStep 1 (clearPulses s))) := by
    intro t h hb
    simp only [runStep, hb, Bool.false_eq_true, if_false, hostStep, arbitrate_clearPulses] at h
    split at h
    · rename_i i hi
      obtain ⟨u, hu, rfl⟩ := mapNext_eq_next h
      exact .inl ⟨i, u, hi, hu, rfl⟩
    · rename_i hi
      simp only [Host.Outcome.next.injEq] at h
      exact .inr ⟨hi, h.symm⟩
  unfold step at h
  split at h
  · rename_i hr
    simp only [resetStep, Host.Outcome.next.injEq] at h
    exact .inl ⟨by simp [hr], s, h.symm, .inl rfl⟩
  · rename_i hr
    by_cases hb : s.seq.busy = true
    · refine .inr (.inl ⟨hr, hb, ?_⟩)
      simp only [runStep, hb, if_true, sequencerStep, clearPulses_seq] at h
      split at h
      · cases h
      · rename_i act ha
        rw [runAction_eq_micros ha, mapNext_next, Host.Outcome.next.injEq] at h
        exact ⟨act, ha, h.symm⟩
    · have hb' : s.seq.busy = false := by simpa using hb
      exact .inr (.inr ⟨by simp [hr], hb', run h hb'⟩)
  · rename_i k hr
    by_cases hb : s.seq.busy = true
    · refine .inl ⟨by simp [hr], ?_⟩
      simp only [cutStep, hb, if_true] at h
      split at h
      · simp only [resetStep, Host.Outcome.next.injEq] at h
        exact ⟨s, h.symm, .inl rfl⟩
      · rename_i act ha
        simp only [Host.Outcome.next.injEq] at h
        exact ⟨_, h.symm, .inr ⟨k, act, hr, hb, ha, rfl⟩⟩
    · have hb' : s.seq.busy = false := by simpa using hb
      simp only [cutStep, hb', Bool.false_eq_true, if_false] at h
      exact .inr (.inr ⟨by simp [hr], hb', run h hb'⟩)

/-- A step with `rst` low from a state that has a sequencer step to run, if a sequence is in progress, answers a next state
of the same kind; with nothing scheduled, the inputs stay. -/
theorem step_low {s : State} (hr : s.env.inputs.rst = .low) (hl : s.seq.busy = true → s.seq.label ≠ .none) :
    ∃ t, step s = .next t ∧ (t.seq.busy = true → t.seq.label ≠ .none) ∧
      (s.env.script = [] → t.env.inputs = s.env.inputs ∧ t.env.script = []) := by
  have after : ∀ (n : Nat) (u : State), u.env.inputs = s.env.inputs → u.env.script = s.env.script →
      s.env.script = [] → (endStep n u).env.inputs = s.env.inputs ∧ (endStep n u).env.script = [] := by
    intro n u h1 h2 hs
    rw [endStep, nextInputs_empty _ (by simp [h2, hs])]
    simp [h1, h2, hs]
  by_cases hb : s.seq.busy = true
  · obtain ⟨act, ha⟩ : ∃ act, labelAction s.seq.label = some act := by
      have := hl hb
      revert this
      cases s.seq.label <;> simp [labelAction]
    refine ⟨endStep s.params.syncStages (advanceSeq (runMicros (actionMicros act (clearPulses s)) (clearPulses s))), ?_, ?_, ?_⟩
    · simp [step, hr, runStep, hb, sequencerStep, ha, runAction_eq_micros ha]
    · rw [endStep_seq]
      simp only [advanceSeq, runMicros_seq, runMicros_hasReset, clearPulses_seq]
      have := hl hb
      cases hh : s.ctl.hasReset <;> cases hq : s.seq.label <;> simp_all [seqAfter, seqIdle, seqAsleep, afterSu0]
    · exact after _ _ (by simp [advanceSeq]) (by simp [advanceSeq])
  · have hb' : s.seq.busy = false := by simpa using hb
    cases hi : arbitrate s with
    | none =>
      refine ⟨endStep 1 (clearPulses s), ?_, ?_, after _ _ rfl rfl⟩
      · simp [step, hr, runStep, hb', hostStep, hi]
      · rw [endStep_seq]; simp [hb']
    | some i =>
      obtain ⟨u, hu⟩ := exec_next i (clearPulses s)
      have hreq : (u.seq = s.seq ∨ u.seq.label ≠ .none) ∧ u.env = s.env := by
        rcases selectRequest_cases hi with ⟨rfl, -, hacc⟩ | ⟨rfl, -, hacc, -⟩ | ⟨rfl, -, hacc, -⟩ | ⟨rfl, -, hacc, -⟩ <;>
          simp only [exec, execSetPixel, execUpdate, execSleep, execSetup, accepts_clearPulses, hacc, if_true,
            Host.Outcome.next.injEq] at hu <;> subst hu
        · refine ⟨.inl ?_, ?_⟩ <;> simp only [raiseAck, writePixel] <;> split <;> rfl
        · exact ⟨.inr (by simp [raiseAck, startUpdate]), rfl⟩
        · exact ⟨.inr (by simp [raiseAck, startSleep]), rfl⟩
        · refine ⟨.inr ?_, rfl⟩
          simp only [raiseAck, startSetup, fillFb, afterSu0]
          split <;> simp
      refine ⟨endStep (edgesOf i s.params) u, ?_, ?_, after _ u (by rw [hreq.2]) (by rw [hreq.2])⟩
      · simp [step, hr, runStep, hb', hostStep, hi, hu]
      · rw [endStep_seq]
        intro hbu
        rcases hreq.1 with h | h
        · rw [h, hb'] at hbu; cases hbu
        · exact h

end Sys2Proof.Machine
end

