-- ==== Sys2Proof/Laws/BusyWait.lean ====
section
/-! SUPPORT. WAIT_IDLE in closed form (R210, R213, R217): the three ways a wait can go, and that there is no fourth. -/

namespace Sys2Proof.Machine

/-- A wait that saw `k` busy samples and then an idle one: 100 ms a poll and the settle delay. -/
def afterWaitOk (k : Nat) (s : State) : State :=
  { s with
    ctl.waitOk := true
    busySync := syncAfter s.params.syncStages (s.draws.sampleIx + k) false
    env.busyIn := s.env.busyIn.drop (k + 1)
    draws.sampleIx := s.draws.sampleIx + (k + 1)
    time := s.time + (100 * k + 100)
    dp.elapsed := BitVec.ofNat 15 (100 * k)
    dp.delayCnt := 0#8
    dp.tickDiv := 0 }

/-- A wait at site `w` that saw 201 busy samples: 20000 ms, and the timeout taken. -/
def afterWaitTimeout (w : Site) (s : State) : State :=
  takeTimeout w
    { s with
      ctl.waitOk := false
      busySync := syncAfter s.params.syncStages (s.draws.sampleIx + 200) true
      env.busyIn := s.env.busyIn.drop 201
      draws.sampleIx := s.draws.sampleIx + 201
      time := s.time + 20000
      dp.elapsed := 20000#15
      dp.delayCnt := 0#8
      dp.tickDiv := 0 }

theorem waitMicros_noBusy {s : State} (w : Site) (h : s.ctl.hasBusy = false) :
    runMicros (waitMicros w s) s = { s with ctl.waitOk := true } := by
  simp [waitMicros, h, runMicro, setWaitOk]

/-- The loop at an idle sample. -/
theorem waitLoop_idle (w : Site) {line : Nat → Bool} {k : Nat} (fuel el : Nat) (h : line k = false) :
    waitLoop w line (fuel + 1) k el = .sample false :: (delayMicros 100#8 ++ [.waitOk true]) := by
  simp [waitLoop, h, Config.settleMs]

/-- The loop at a busy sample at the deadline. -/
theorem waitLoop_deadline (w : Site) {line : Nat → Bool} {k el : Nat} (fuel : Nat) (h : line k = true)
    (he : 20000 ≤ el) : waitLoop w line (fuel + 1) k el = [.sample true, .waitOk false, .timeout w] := by
  simp [waitLoop, h, Config.timeoutMs, he]

theorem waitMicros_ok {s : State} (w : Site) {k : Nat} (h : s.ctl.hasBusy = true) (hk : k ≤ 200)
    (hb : ∀ j < k, busyLine s j = true) (hi : busyLine s k = false) :
    runMicros (waitMicros w s) s = afterWaitOk k s := by
  have hloop := runMicros_waitLoop_busy w (busyLine s) (clearElapsed s) k (201 - k) (by omega) hb
  rw [Nat.sub_add_cancel (by omega), show 201 - k = (200 - k) + 1 by omega, waitLoop_idle w _ _ hi] at hloop
  rw [waitMicros, if_pos h, runMicros_cons]
  refine hloop.trans ?_
  rw [runMicros_cons, runMicros_append, runMicros_delay]
  simp [runMicro, takeSample, setWaitOk, clearElapsed, afterPolls, afterWaitOk, Nat.add_assoc]

theorem waitMicros_timeout {s : State} (w : Site) (h : s.ctl.hasBusy = true) (hb : ∀ j ≤ 200, busyLine s j = true) :
    runMicros (waitMicros w s) s = afterWaitTimeout w s := by
  have hloop := runMicros_waitLoop_busy w (busyLine s) (clearElapsed s) 200 1 (by omega)
    (fun j hj => hb j (by omega))
  rw [waitLoop_deadline w 0 (hb 200 le_rfl) (by omega)] at hloop
  rw [waitMicros, if_pos h, runMicros_cons]
  refine hloop.trans ?_
  simp [runMicro, takeSample, setWaitOk, clearElapsed, afterPolls, afterWaitTimeout]

/-- A wait goes one of three ways (R217). -/
theorem waitMicros_cases (w : Site) (s : State) :
    (s.ctl.hasBusy = false ∧ runMicros (waitMicros w s) s = { s with ctl.waitOk := true }) ∨
    (s.ctl.hasBusy = true ∧ ∃ k ≤ 200, (∀ j < k, busyLine s j = true) ∧ busyLine s k = false ∧
      runMicros (waitMicros w s) s = afterWaitOk k s) ∨
    (s.ctl.hasBusy = true ∧ (∀ j ≤ 200, busyLine s j = true) ∧
      runMicros (waitMicros w s) s = afterWaitTimeout w s) := by
  by_cases h : s.ctl.hasBusy = true
  · by_cases hx : ∃ k, k ≤ 200 ∧ busyLine s k = false
    · classical
      obtain ⟨hk, hi⟩ := Nat.find_spec hx
      have hb : ∀ j < Nat.find hx, busyLine s j = true := fun j hj => by
        have := Nat.find_min hx hj
        by_contra hne
        exact this ⟨by omega, by simpa using hne⟩
      exact .inr (.inl ⟨h, _, hk, hb, hi, waitMicros_ok w h hk hb hi⟩)
    · have hb : ∀ j ≤ 200, busyLine s j = true := fun j hj => by
        by_contra hne
        exact hx ⟨j, hj, by simpa using hne⟩
      exact .inr (.inr ⟨h, hb, waitMicros_timeout w h hb⟩)
  · have h' : s.ctl.hasBusy = false := by simpa using h
    exact .inl ⟨h', waitMicros_noBusy w h'⟩

end Sys2Proof.Machine
end

