-- ==== Sys2Proof/Laws/Frame.lean ====
section
/-! SUPPORT. What the row fetches of a frame do (R126, R184), in closed form, and the payload they send (R66). -/

namespace Sys2Proof.Machine

/-- The state after row fetches whose bytes were `bs` and whose last was of output row `j`, byte `i`. -/
def afterFetches (j i : Nat) (bs : List Byte) (s : State) : State :=
  { s with
    trace := s.trace ++ stampAll s.time (bs.map .xfer)
    pins.txByte := fbByte s (rowFetchAddr j i)
    pins.txValid := false
    dp.rowCnt := BitVec.ofNat 9 j
    dp.colCnt := BitVec.ofNat 5 i
    dp.fbAddr := BitVec.ofNat 13 (rowFetchAddr j i) }

@[simp] theorem fbByte_afterFetches (j i : Nat) (bs : List Byte) (s : State) (a : Nat) :
    fbByte (afterFetches j i bs s) a = fbByte s a := rfl

/-- Fetches after fetches. -/
theorem afterFetches_afterFetches (j i j' i' : Nat) (bs bs' : List Byte) (s : State) :
    afterFetches j' i' bs' (afterFetches j i bs s) = afterFetches j' i' (bs ++ bs') s := by
  simp [afterFetches, stampAll, fbByte]

/-- The actions of one fetch and transfer. -/
def fetchMicros (ji : Nat × Nat) : List Micro := [.fetch ji.1 ji.2, .take]

/-- Fetches one after another, of which there is at least one. -/
theorem runMicros_fetches (l : List (Nat × Nat)) (last : Nat × Nat) (s : State) :
    runMicros ((l ++ [last]).flatMap fetchMicros) s =
      afterFetches last.1 last.2 ((l ++ [last]).map fun ji => fbByte s (rowFetchAddr ji.1 ji.2)) s := by
  have one : ∀ (ji : Nat × Nat) (s : State),
      runMicros (fetchMicros ji) s = afterFetches ji.1 ji.2 [fbByte s (rowFetchAddr ji.1 ji.2)] s :=
    fun ji s => runMicros_fetch_take ji.1 ji.2 s
  induction l generalizing s with
  | nil => simpa using one last s
  | cons ji l ih =>
    rw [List.cons_append, List.flatMap_cons, runMicros_append, one, ih, afterFetches_afterFetches]
    rfl

/-- The (row, byte) pairs of the frame, in the order they are sent (R184). -/
def framePairs : List (Nat × Nat) := (List.range 296).flatMap fun j => (List.range 19).map fun i => (j, i)

theorem blockXfers_rowFetch : blockXfers .rowFetch = framePairs.flatMap fetchMicros := by
  simp [blockXfers, framePairs, fetchMicros, List.flatMap_assoc, List.flatMap_map, Config.height, Config.stride]

/-- The last pair is output row 295, byte 18. -/
theorem framePairs_last : framePairs =
    ((List.range 295).flatMap (fun j => (List.range 19).map fun i => (j, i)) ++ (List.range 18).map fun i => (295, i)) ++
      [(295, 18)] := by
  simp only [framePairs, List.range_succ (n := 295), List.flatMap_append, List.flatMap_cons, List.flatMap_nil,
    List.append_nil, List.range_succ (n := 18), List.map_append, List.map_cons, List.map_nil, List.append_assoc]

/-- Position `19 j + i` of the payload is (row, byte) pair `(j, i)` (R66). -/
theorem payloadAddr_pair {j i : Nat} (hi : i < 19) : payloadAddr (19 * j + i) = rowFetchAddr j i := by
  have h1 : (19 * j + i) / 19 = j := by omega
  have h2 : (19 * j + i) % 19 = i := by omega
  simp [payloadAddr, rowFetchAddr, Config.height, Config.stride, h1, h2]

/-- The bytes fetched, pair by pair, are the frame payload (R66). -/
theorem framePairs_bytes (s : State) :
    framePairs.map (fun ji => fbByte s (rowFetchAddr ji.1 ji.2)) = framePayload s := by
  have rows : ∀ n, ((List.range n).flatMap fun j => (List.range 19).map fun i => (j, i)).map
      (fun ji => fbByte s (rowFetchAddr ji.1 ji.2)) = (List.range (19 * n)).map fun p => fbByte s (payloadAddr p) := by
    intro n
    induction n with
    | zero => rfl
    | succ n ih =>
      rw [List.range_succ (n := n), List.flatMap_append, List.map_append, ih, Nat.mul_succ, List.range_add, List.map_append]
      congr 1
      simp only [List.flatMap_cons, List.flatMap_nil, List.append_nil, List.map_map]
      exact List.map_congr_left fun i hi => by
        simp only [Function.comp, payloadAddr_pair (List.mem_range.mp hi)]
  rw [framePairs, rows, framePayload, List.range_eq_range']
  rfl

/-- SEND_BLOCK of the frame (R142, R184): one block frame with the payload, the counters at their last values. -/
theorem runMicros_block_rowFetch (s : State) :
    runMicros (blockMicros .rowFetch) s =
      { afterBus .data (fbByte s 18) (blockFrame (framePayload s)) s with
        dp := { s.dp with rowCnt := 295#9, colCnt := 18#5, fbAddr := 18#13 } } := by
  have h := runMicros_fetches
    ((List.range 295).flatMap (fun j => (List.range 19).map fun i => (j, i)) ++ (List.range 18).map fun i => (295, i))
    (295, 18)
  rw [← framePairs_last] at h
  simp only [framePairs_bytes] at h
  rw [blockMicros, blockXfers_rowFetch, runMicros_append, runMicros_append, h]
  simp [runMicro, setMode, setSel, emit, afterBus, afterFetches, blockFrame, stampAll, modeLevel, selLevel,
    rowFetchAddr, Config.height, Config.stride, framePayload, fbByte]

/-- The frame payload looks at FB and the reset count only. -/
theorem framePayload_congr {s t : State} (hf : t.fb = s.fb) (he : t.draws.epoch = s.draws.epoch) :
    framePayload t = framePayload s := by
  simp [framePayload, fbByte_congr hf he]

end Sys2Proof.Machine
end

