-- ==== Sys2Proof/Laws/PerInstr.lean ====
section
/-! SUPPORT. A law said of every instruction as syntax: its code, if it has one, is of the layer the table gives its row
(00_scope.md R3, 30_encoding.md R90), and the internal primitives have none. -/

namespace Sys2Proof.Laws.Layer

/-- The layer a code belongs to: 0 host request, 1 host read port, 2 panel command. -/
def ofCode : Code → Nat
  | .request _ => 0
  | .port _ => 1
  | .opcode _ => 2

/-- The layer of the instruction's row in spec/opcode_table.json (formats HREQ, HPORT, PC0 to PCB); none for format
PRIM. -/
def ofInstr : Instr → Option Nat
  | .setPixel _ _ _ | .update | .sleep | .setup _ _ _ => some 0
  | .fbRead _ => some 1
  | .swreset | .dataEntryMode | .setXRange | .setYRange | .setXCounter | .setYCounter | .writeRam | .activate
  | .deepSleep => some 2
  | .fill | .resetPulse | .sendCmd _ | .sendData _ | .sendBlock _ | .waitIdle _ | .delay _ => none

/-- The instruction's code is of its row's layer, on every board. -/
def Statement (i : Instr) : Prop := ∀ p : Params, (encode p i).map ofCode = ofInstr i

theorem swreset : Statement .swreset := fun _ => rfl
theorem dataEntryMode : Statement .dataEntryMode := fun _ => rfl
theorem setXRange : Statement .setXRange := fun _ => rfl
theorem setYRange : Statement .setYRange := fun _ => rfl
theorem setXCounter : Statement .setXCounter := fun _ => rfl
theorem setYCounter : Statement .setYCounter := fun _ => rfl
theorem writeRam : Statement .writeRam := fun _ => rfl
theorem activate : Statement .activate := fun _ => rfl
theorem deepSleep : Statement .deepSleep := fun _ => rfl
theorem setPixel (x y : Coord) (on : Bool) : Statement (.setPixel x y on) := fun _ => rfl
theorem update : Statement .update := fun _ => rfl
theorem sleep : Statement .sleep := fun _ => rfl
theorem setup (hasReset hasBusy : Bool) (n : BitVec 32) : Statement (.setup hasReset hasBusy n) := fun _ => rfl
theorem fbRead (a : FbAddr) : Statement (.fbRead a) := fun _ => rfl
theorem fill : Statement .fill := fun _ => rfl
theorem resetPulse : Statement .resetPulse := fun _ => rfl
theorem sendCmd (op : Byte) : Statement (.sendCmd op) := fun _ => rfl
theorem sendData (b : Byte) : Statement (.sendData b) := fun _ => rfl
theorem sendBlock (src : BlockSrc) : Statement (.sendBlock src) := fun _ => rfl
theorem waitIdle (w : Site) : Statement (.waitIdle w) := fun _ => rfl
theorem delay (n : BitVec 8) : Statement (.delay n) := fun _ => rfl

end Sys2Proof.Laws.Layer
end

