-- ==== Sys2Proof/Laws/Runs.lean ====
section
/-! SUPPORT. Runs of several steps, taken apart one step at a time. -/

namespace Sys2Proof.Machine

/-- No step. -/
@[simp] theorem runSteps_zero (s : State) : runSteps 0 s = .next s := rfl

/-- One step of any core, then the rest. -/
theorem run_of_step (M : Host.Core) {k : Nat} {s u : M.State} (h : M.step s = .next u) : M.run (k + 1) s = M.run k u := by
  simp only [Host.Core.run, h]

/-- One step, then the rest. -/
theorem runSteps_succ {k : Nat} {s u : State} (h : step s = .next u) : runSteps (k + 1) s = runSteps k u :=
  run_of_step Sys2Proof.core h

/-- Runs without a scheduled input and with `rst` low answer a next state, the inputs as they were. -/
theorem runSteps_next (k : Nat) (s : State) (hr : s.env.inputs.rst = .low) (hs : s.env.script = [])
    (hl : s.seq.busy = true → s.seq.label ≠ .none) :
    ∃ t, runSteps k s = .next t ∧ t.env.inputs = s.env.inputs ∧ t.env.script = [] ∧
      (t.seq.busy = true → t.seq.label ≠ .none) := by
  induction k generalizing s with
  | zero => exact ⟨s, rfl, rfl, hs, hl⟩
  | succ k ih =>
    obtain ⟨u, hu, hul, hue⟩ := step_low hr hl
    obtain ⟨hi, hsc⟩ := hue hs
    obtain ⟨t, ht, hti, hts, htl⟩ := ih u (hi ▸ hr) hsc hul
    exact ⟨t, (runSteps_succ hu).trans ht, hti.trans hi, hts, htl⟩

end Sys2Proof.Machine
end

