-- ==== Sys2Proof/Laws/Sync.lean ====
section
/-! SUPPORT. What clock edges do to the synchronizer (R39, R218), in closed form. -/

namespace Sys2Proof.Machine

/-- The level an edge samples looks at the environment's list and its count only. -/
theorem edgeLevel_congr {s t : State} (hl : t.env.lineIn = s.env.lineIn) (hi : t.draws.edgeIx = s.draws.edgeIx) (k : Nat) :
    edgeLevel t k = edgeLevel s k := by
  simp [edgeLevel, hl, hi]

/-- The edges after the first are those from now on, one later. -/
@[simp] theorem edgeLevel_clockEdge (s : State) (k : Nat) : edgeLevel (clockEdge s) k = edgeLevel s (k + 1) := by
  simp [edgeLevel, List.getElem?_tail, Nat.add_assoc, Nat.add_comm 1 k]

/-- The number of stages stays. -/
@[simp] theorem length_busySync_clockEdges (n : Nat) (s : State) :
    (clockEdges n s).busySync.length = s.busySync.length := by
  induction n generalizing s with
  | zero => rfl
  | succ n ih => rw [clockEdges, ih]; simp

/-- After `n` clock edges the chain holds the last levels sampled, the latest first, and then what is left of the levels that
were in it. -/
theorem clockEdges_busySync (n : Nat) (s : State) :
    (clockEdges n s).busySync =
      (((List.range n).map (edgeLevel s)).reverse ++ s.busySync).take s.busySync.length := by
  induction n generalizing s with
  | zero => simp [clockEdges]
  | succ n ih =>
    have h : edgeLevel (clockEdge s) = fun k => edgeLevel s (k + 1) := funext (edgeLevel_clockEdge s)
    rw [clockEdges, ih, List.range_succ_eq_map, h]
    simp [List.dropLast_eq_take, List.take_append, List.take_take, Function.comp_def]

/-- Enough clock edges leave nothing of what was in the chain. -/
theorem clockEdges_busySync_full {n : Nat} {s : State} (h : s.busySync.length = n) :
    (clockEdges n s).busySync = ((List.range n).map (edgeLevel s)).reverse := by
  rw [clockEdges_busySync, h, List.take_left' (by simp)]

/-- The read port does not touch the line. -/
@[simp] theorem edgeLevel_readPort (a : FbAddr) (s : State) : edgeLevel (readPort a s) = edgeLevel s := by
  funext k
  apply edgeLevel_congr <;> simp only [readPort] <;> split <;> rfl

/-- The chain after the `n` clock edges of a step. -/
theorem endStep_busySync (n : Nat) (s : State) :
    (endStep n s).busySync = (((List.range n).map (edgeLevel s)).reverse ++ s.busySync).take s.busySync.length := by
  simp [endStep, clockEdges_busySync]

/-- BUSY_Q at a sample is the bit the sample returns (R214). -/
theorem busyQ_takeSample (b : Bool) (s : State) : busyQ (takeSample b s) = some b := by
  simp [busyQ, syncAfter]

end Sys2Proof.Machine
end

