-- ==== Sys2Proof/Tests/Slice0.lean ====
section
/-! SUPPORT. Tests with expected values from the spec (95_test_vectors.md, the encodings of 30_encoding.md), and for every
statement with hypotheses a witness that meets them. -/

namespace Sys2Proof.Tests

open Sys2Proof.Machine

/-! ### States -/

/-- An idle block: Idle, no sequence. -/
def idle : State := { State.reset with seq := ⟨.idle, .none, false⟩ }

/-- A block in Sleeping, no sequence. -/
def asleep : State := { State.reset with seq := ⟨.sleeping, .none, false⟩ }

/-- An idle block whose FB has been filled. -/
def ready : State := { idle with fb := memFilled }

/-- A block in Sleeping whose FB has been filled. -/
def readyAsleep : State := { asleep with fb := memFilled }

/-- A block at a step of a sequence. -/
def at_ (stage : Stage) (l : Label) : State := { State.reset with seq := ⟨stage, l, true⟩ }

/-- The request lines of a vector (R91) on the ports. -/
def ask (v : BitVec 4) (s : State) : State := { s with env.inputs.request := requestOfVector v }

/-- Pixel operands on the ports (R92). -/
def askPixel (x y : Coord) (on : Bool) (s : State) : State :=
  { s with env.inputs.request := { requestOfVector 0b1000#4 with pxX := x, pxY := y, pxOn := on } }

/-- `rst` on its port. -/
def withRst (r : RstIn) (s : State) : State := { s with env.inputs.rst := r }

/-- A busy line: the levels the next samples draw, with CFG_HAS_BUSY. -/
def line (hasBusy : Bool) (bits : List Bool) (s : State) : State := { s with ctl.hasBusy := hasBusy, env.busyIn := bits }

/-- A line stuck at busy, seen sample by sample. -/
theorem busyLine_line {s t : State} {hb : Bool} {n j : Nat} (h : line hb (List.replicate n true) s = t) (hj : j < n) :
    busyLine t j = true := by
  subst h
  unfold busyLine line
  simp only [List.getElem?_replicate, if_pos hj]

/-- Something of the state an instruction leaves. -/
def after {α : Type} (i : Instr) (s : State) (f : State → α) : Option α :=
  match exec i s with
  | .next t => some (f t)
  | _ => none

/-- Something of the state a step leaves. -/
def afterStep {α : Type} (s : State) (f : State → α) : Option α :=
  match step s with
  | .next t => some (f t)
  | _ => none

/-- The events of a trace. -/
def events (s : State) : List Event := s.trace.map Stamped.event

/-! ### Well-formedness: an ill-formed term for each check -/

/-- R108: 0x46 is none of the nine opcodes. -/
theorem test_wellFormed_sendCmd : (Instr.sendCmd 0x46#8).wellFormed Params.suggested = false ∧
    (Instr.sendCmd 0x12#8).wellFormed Params.suggested = true := by decide

/-- R97, R142: a block carries at least one byte. -/
theorem test_wellFormed_sendBlock : (Instr.sendBlock (.bytes [])).wellFormed Params.suggested = false ∧
    (Instr.sendBlock .rowFetch).wellFormed Params.suggested = true := by decide

/-- R220: a delay is 2, 100 or 200 ms. -/
theorem test_wellFormed_delay : (Instr.delay 3#8).wellFormed Params.suggested = false ∧
    (Instr.delay 2#8).wellFormed Params.suggested = true ∧ (Instr.delay 100#8).wellFormed Params.suggested = true ∧
    (Instr.delay 200#8).wellFormed Params.suggested = true := by decide

/-- R109: coordinates outside the panel are legal operands. -/
theorem test_wellFormed_setPixel : (Instr.setPixel 0xFFFF#16 0x7FFF#16 true).wellFormed Params.suggested = true := by
  decide

/-! ### Decoding: words written out from R91, R93, R100 -/

theorem test_decode_swreset : decodeTableWord 8 0b00010010 = some .swreset := by decide
theorem test_decode_dataEntryMode : decodeTableWord 8 0b00010001 = some .dataEntryMode := by decide
theorem test_decode_setXRange : decodeTableWord 8 0b01000100 = some .setXRange := by decide
theorem test_decode_setYRange : decodeTableWord 8 0b01000101 = some .setYRange := by decide
theorem test_decode_setXCounter : decodeTableWord 8 0b01001110 = some .setXCounter := by decide
theorem test_decode_setYCounter : decodeTableWord 8 0b01001111 = some .setYCounter := by decide
theorem test_decode_writeRam : decodeTableWord 8 0b00100100 = some .writeRam := by decide
theorem test_decode_activate : decodeTableWord 8 0b00100000 = some .activate := by decide
theorem test_decode_deepSleep : decodeTableWord 8 0b00010000 = some .deepSleep := by decide
theorem test_decode_setup : decodeTableWord 8 0b0001 = some (.setup false false 0#32) := by decide
theorem test_decode_update : decodeTableWord 8 0b0010 = some .update := by decide
theorem test_decode_sleep : decodeTableWord 8 0b0100 = some .sleep := by decide
theorem test_decode_setPixel : decodeTableWord 8 0b1000 = some (.setPixel 0#16 0#16 false) := by decide
theorem test_decode_fbRead : decodeTableWord 16 0x15F7 = some (.fbRead 5623#13) ∧
    decodeTableWord 16 0x1FFF = some (.fbRead 8191#13) := by decide

/-- R108: a byte that is no opcode, and two bytes with a bit above the address, are rejected. -/
theorem test_decode_rejects : decodeTableWord 8 0x13 = none ∧ decodeTableWord 8 0xFF = none ∧
    decodeTableWord 16 0x2000 = none ∧ decodeTableWord 24 0x12 = none ∧
    decode Params.suggested (.opcode 0x46#8) = .error (.unknownOpcode 0x46#8) ∧
    decode Params.suggested (.request Request.none) = .error .noRequest := ⟨by decide, by decide, by decide, by decide, rfl, rfl⟩

/-- R91, R92: the vector of program P2's call 2, `req` 0b1000 with operands 0x0097, 0x0127, 0. -/
theorem test_requestVector :
    requestVector { Request.none with pxWe := true, pxX := 0x0097#16, pxY := 0x0127#16 } = 0b1000#4 ∧
    decode Params.suggested (.request { Request.none with pxWe := true, pxX := 0x0097#16, pxY := 0x0127#16 }) =
      .ok (.setPixel 151#16 295#16 false) := ⟨by decide, rfl⟩

/-- S1: SET_Y_RANGE on the bus, and it reads back with the bytes after it. -/
theorem test_commandBytes_setYRange :
    commandBytes Params.suggested [] .setYRange =
      [(.cmd, 0x45#8), (.data, 0x00#8), (.data, 0x00#8), (.data, 0x28#8), (.data, 0x01#8)] ∧
    readCommand Params.suggested (commandBytes Params.suggested [] .setYRange ++ [(.cmd, 0x12#8)]) =
      .ok (.setYRange, [(.cmd, 0x12#8)]) := ⟨by decide, rfl⟩

/-- R100: a length or a data byte the opcode does not fix, and data before a command, are rejected by name. -/
theorem test_readCommand_rejects :
    readCommand Params.suggested [(.cmd, 0x11#8)] = .error (.missingData .dataEntryMode) ∧
    readCommand Params.suggested [(.cmd, 0x11#8), (.data, 0x02#8)] = .error (.wrongData .dataEntryMode) ∧
    readCommand Params.suggested [(.data, 0x03#8)] = .error (.strayData 0x03#8) ∧
    readCommand Params.suggested [] = .error .empty := ⟨rfl, rfl, rfl, rfl⟩

/-- EN9 to EN11. -/
theorem test_fieldBytes : fieldBytes 0x0127#16 = [0x27#8, 0x01#8] ∧ fieldBytes 0x0128#16 = [0x28#8, 0x01#8] ∧
    fieldBytes 0x0000#16 = [0x00#8, 0x00#8] := by decide

/-! ### The pixel buffer (T-PB) -/

/-- PB1, PB2, PB7, PB9: index, mask and byte. -/
theorem test_setPixel_clears :
    after (.setPixel 0 0 false) { idle with fb := [(0, 0xFF#8)] } (fun t => (t.fb, t.pins.pxAck)) =
      some ([(0, 0x7F#8)], true) ∧
    after (.setPixel 7 0 false) { idle with fb := [(0, 0xFF#8)] } (·.fb) = some [(0, 0xFE#8)] ∧
    after (.setPixel 75 147 false) { idle with fb := [(2802, 0xFF#8)] } (·.fb) = some [(2802, 0xEF#8)] ∧
    after (.setPixel 151 295 false) { idle with fb := [(5623, 0xFF#8)] } (·.fb) = some [(5623, 0xFE#8)] := by decide

/-- PB11, PB12, and PB13, PB15, PB18: a set bit, a byte that is not all ones, out of bounds. -/
theorem test_setPixel_sets_and_bounds :
    after (.setPixel 0 0 true) { idle with fb := [(0, 0x00#8)] } (·.fb) = some [(0, 0x80#8)] ∧
    after (.setPixel 5 0 false) { idle with fb := [(0, 0x7F#8)] } (·.fb) = some [(0, 0x7B#8)] ∧
    after (.setPixel 152 0 false) { idle with fb := [(19, 0xFF#8)] } (fun t => (t.fb, t.pins.pxAck)) =
      some ([(19, 0xFF#8)], true) ∧
    after (.setPixel 0xFFFF#16 0 false) { idle with fb := [(0, 0xFF#8)] } (·.fb) = some [(0, 0xFF#8)] ∧
    after (.setPixel 0x8000#16 0 false) { idle with fb := [(0, 0xFF#8)] } (·.fb) = some [(0, 0xFF#8)] := by decide

/-- The read-back after PB1: `fb_read(0)` = 0x7F. -/
theorem test_fbRead : after (.fbRead 0) { idle with fb := [(0, 0x7F#8)] } (·.fbRdata) = some 0x7F#8 := by decide

/-- S7: a fresh buffer reads 0xFF, at its last address too. -/
theorem test_fill : ∃ t, exec .fill State.reset = .next t ∧ memRead t.fb 0 = some 0xFF#8 ∧
    memRead t.fb 5623 = some 0xFF#8 ∧ memRead t.fb 5624 = none :=
  ⟨_, rfl, memRead_memFilled 0, memRead_memFilled 5623, memRead_memFilled 5624⟩

/-! ### The encoder (T-EN) -/

/-- EN1, and its pin levels at DC_CMD_LEVEL = 0, CS_ACTIVE_LEVEL = 0. -/
theorem test_sendCmd :
    after (.sendCmd 0x12#8) State.reset events = some [.mode .cmd, .sel true, .xfer 0x12#8, .sel false] ∧
    after (.sendCmd 0x12#8) State.reset (fun t => (t.pins.dcOut, t.pins.csOut)) = some (false, true) := by decide

/-- EN2. -/
theorem test_sendData :
    after (.sendData 0x03#8) State.reset events = some [.mode .data, .sel true, .xfer 0x03#8, .sel false] := by decide

/-- EN4. -/
theorem test_sendBlock :
    after (.sendBlock (.bytes [0xAA#8, 0x55#8, 0x00#8])) State.reset events =
      some [.mode .data, .sel true, .xfer 0xAA#8, .xfer 0x55#8, .xfer 0x00#8, .sel false] := by decide

/-- S1: SWRESET, DATA_ENTRY_MODE and SET_X_RANGE, as (mode, byte) pairs. -/
theorem test_init_commands :
    after .swreset State.reset (fun t => classify .data (events t)) = some [(.cmd, 0x12#8)] ∧
    after .dataEntryMode State.reset (fun t => classify .data (events t)) = some [(.cmd, 0x11#8), (.data, 0x03#8)] ∧
    after .setXRange State.reset (fun t => classify .data (events t)) =
      some [(.cmd, 0x44#8), (.data, 0x01#8), (.data, 0x13#8)] := by decide

/-- EN5: twenty events. -/
theorem test_setYRange :
    after .setYRange State.reset (fun t => classify .data (events t)) =
      some [(.cmd, 0x45#8), (.data, 0x00#8), (.data, 0x00#8), (.data, 0x28#8), (.data, 0x01#8)] ∧
    after .setYRange State.reset (fun t => t.trace.length) = some 20 := by decide

/-- EN6 to EN8, and ACTIVATE (R152), at the suggested opcodes. -/
theorem test_open_opcode_commands :
    after .setYCounter State.reset (fun t => classify .data (events t)) =
      some [(.cmd, 0x4F#8), (.data, 0x27#8), (.data, 0x01#8)] ∧
    after .setXCounter State.reset (fun t => classify .data (events t)) = some [(.cmd, 0x4E#8), (.data, 0x01#8)] ∧
    after .deepSleep State.reset (fun t => classify .data (events t)) = some [(.cmd, 0x10#8), (.data, 0x01#8)] ∧
    after .activate State.reset (fun t => classify .data (events t)) = some [(.cmd, 0x20#8)] := by decide

/-- T-MM: payload positions and the addresses they carry. -/
theorem test_payloadAddr : payloadAddr 0 = 5605 ∧ payloadAddr 18 = 5623 ∧ payloadAddr 19 = 5586 ∧ payloadAddr 5604 = 37 ∧
    payloadAddr 5605 = 0 ∧ payloadAddr 5623 = 18 := by decide

/-- FV1, S4: WRITE_RAM's first payload byte is FB[5605], position 5605 is FB[0]. -/
theorem test_writeRam_rows : payloadAddr 0 ≠ 0 ∧ rowFetchAddr 0 0 = 5605 ∧ rowFetchAddr 295 0 = 0 := by decide

/-! ### Waits, the delay, the reset pulse (T-BW, S10) -/

/-- BW1 to BW3: time, samples, result. -/
theorem test_waitIdle :
    after (.waitIdle 0#2) (line false [true] State.reset) (fun t => (t.time, t.draws.sampleIx, t.ctl.waitOk)) =
      some (0, 0, true) ∧
    after (.waitIdle 0#2) (line true [false] State.reset) (fun t => (t.time, t.draws.sampleIx, t.ctl.waitOk)) =
      some (100, 1, true) ∧
    after (.waitIdle 0#2) (line true [true, false] State.reset) (fun t => (t.time, t.draws.sampleIx, t.ctl.waitOk)) =
      some (200, 2, true) := by decide +kernel

/-- BW6: 201 busy samples, 20000 ms, the report. -/
theorem test_waitIdle_timeout :
    ∃ t, exec (.waitIdle 3#2) (line true (List.replicate 201 true) State.reset) = .next t ∧ t.time = 20000 ∧
      t.draws.sampleIx = 201 ∧ t.ctl.waitOk = false ∧ t.ctl.timeoutSeen = 0b1000#4 ∧ events t = [.log 3#2] := by
  refine ⟨_, congrArg Host.Outcome.next (waitMicros_timeout 3#2 rfl fun j hj => busyLine_line rfl (by omega)), rfl, rfl, rfl,
    rfl, rfl⟩

/-- DELAY (R220). -/
theorem test_delay : after (.delay 2#8) State.reset (fun t => (t.time, t.dp.delayCnt, t.trace)) = some (2, 0#8, []) := by
  decide

/-- S10. -/
theorem test_resetPulse :
    after .resetPulse State.reset (fun t => (t.time, t.trace)) =
      some (402, [⟨0, .rst true⟩, ⟨200, .rst false⟩, ⟨202, .rst true⟩]) := by decide +kernel

/-! ### Host operations (T-SM, T-HI) -/

/-- SM9: the counter wraps. -/
theorem test_update_wraps :
    after .update { idle with ctl.updateCount := 0xFFFFFFFF#32 } (fun t => (t.ctl.updateCount, t.seq, t.pins.updateAck)) =
      some (0#32, ⟨.drawing, .dr1, true⟩, true) := by decide

/-- SM1, SM2: with a reset line the state goes to Resetting, without one to Initializing. -/
theorem test_setup_path :
    after (.setup false false 5#32) State.reset (fun t => (stageCode t.seq.stage, t.ctl.fullUpdateEvery)) =
      some (2#3, 5#32) ∧
    after (.setup true false 0#32) State.reset (fun t => (stageCode t.seq.stage, t.ctl.hasReset)) = some (1#3, true) := by
  decide

/-- SM8. -/
theorem test_sleep : after .sleep idle (fun t => (stageCode t.seq.stage, t.time, t.pins.sleepAck)) = some (6#3, 0, true) := by
  decide

/-- HI1, HI2, HI3. -/
theorem test_not_accepted :
    after .update State.reset id = some State.reset ∧ after (.setup true true 1#32) idle id = some idle ∧
    after (.setPixel 0 0 false) State.reset id = some State.reset := by decide

/-- HI5, HI6: `px_we` before `update_req`, `update_req` before `sleep_req`. -/
theorem test_priority :
    arbitrate (ask 0b1010#4 idle) = some (.setPixel 0#16 0#16 false) ∧ arbitrate (ask 0b0110#4 idle) = some .update ∧
    arbitrate (ask 0b1111#4 State.reset) = some (.setup false false 0#32) := by decide

/-- HI4: `update_req` high during an UPDATE is not acknowledged. -/
theorem test_busy_block :
    afterStep (ask 0b0010#4 (at_ .drawing .dr1)) (fun t => (t.pins.updateAck, t.seq.label)) = some (false, .dr3) := by
  decide

/-- HI7, HI8: in Sleeping only `px_we`. -/
theorem test_sleeping :
    arbitrate (ask 0b0111#4 asleep) = none ∧
    afterStep (ask 0b1000#4 { asleep with fb := [(0, 0xFF#8)] }) (fun t => (t.fb, t.trace, t.pins.pxAck)) =
      some ([(0, 0x7F#8)], [], true) := by decide

/-- HI9: `rst` in the middle of a frame: the events stay, no `Sel(0)` follows, the select line is at its reset level. -/
theorem test_cut :
    afterStep (withRst (.during 4) (at_ .initializing .in2)) (fun t => (events t, t.pins.csOut, t.seq)) =
      some ([.mode .cmd, .sel true, .xfer 0x12#8], true, Seq.atReset) := by decide

/-- R193, FV3: after a timed-out wait the sequence goes on as after a success. -/
theorem test_after_timeout : seqAfter true ⟨.initializing, .in1, true⟩ = ⟨.initializing, .in2, true⟩ ∧
    seqAfter true ⟨.refreshing, .rf2, true⟩ = ⟨.idle, .none, false⟩ := by decide

/-- R39, R218: an idle block's chain takes `busy_in` into its first stage, and BUSY_Q shows it one edge later, with two stages;
the chain resets to 1. -/
theorem test_synchronizer_idle :
    afterStep { idle with env.lineIn := [false, true] } (fun t => (t.busySync, t.env.lineIn)) =
      some ([false, true], [true]) ∧
    busyQ (clockEdges 2 { idle with env.lineIn := [false, true] }) = some false ∧
    afterStep (withRst .high { idle with busySync := [false, false] }) (·.busySync) = some [true, true] := by decide

/-- R39, R218: an instruction of a sequence leaves the line's last two levels in the chain, a sample does not keep it. -/
theorem test_synchronizer_sequence :
    afterStep { at_ .initializing .in2 with env.lineIn := [false, true] } (·.busySync) = some [true, false] ∧
    afterStep { at_ .initializing .in1 with ctl.hasBusy := true, env.busyIn := [false], env.lineIn := [true, true] }
      (·.busySync) = some [true, true] := by decide +kernel

/-- R108, R97: a unit of events is a whole frame, and not a selection without a byte. -/
theorem test_eventUnit : EventUnit Params.suggested [.mode .cmd, .sel true, .xfer 0x12#8, .sel false] ∧
    ¬EventUnit Params.suggested [.sel true, .sel false] := by
  refine ⟨.inl ⟨0x12#8, by decide, rfl⟩, ?_⟩
  simp [EventUnit, cmdFrame, dataFrame, blockFrame]

/-- R20, R42: the ports after reset. -/
theorem test_outputs_reset : (outputs State.reset).ready = true ∧ (outputs State.reset).state = 0#3 ∧
    (outputs State.reset).rstOut = true ∧ (outputs State.reset).timeoutSeen = 0#4 := by decide

/-- The only stop: SEQ_BUSY = 1 with STEP = NONE. -/
theorem test_noSequenceStep : step (at_ .idle .none) = .fault .noSequenceStep := rfl

/-! ### Witnesses: states and operands that meet the hypotheses of the statements -/

/-- FB has its values in a filled buffer. -/
theorem memFilled_isSome : ∀ a < 5624, (memRead memFilled a).isSome = true := by
  intro a ha
  simp [memRead_memFilled, Config.fbBytes, ha]

/-- The invariant at an idle block and at a step of a sequence, after FILL. -/
theorem inv_filled (s : State) (hfb : s.fb = memFilled) (hst : s.seq.stage ≠ .uninitialized) (hseq : SeqAgrees s)
    (hpins : PinsRest s) (hdp : s.dp = Datapath.atReset) (hto : s.ctl.timeoutSeen = 0#4) (hsync : SyncAgrees s) : Inv s := by
  refine ⟨hseq, ⟨hfb ▸ memWf_memFilled, fun h => absurd h hst, fun _ => hfb ▸ memFilled_isSome⟩, hpins, ?_, ?_, hsync⟩
  · rw [DatapathInRange, hdp]; decide
  · exact ⟨fun _ => hto, fun _ => hto⟩

theorem inv_ready : Inv ready :=
  inv_filled ready rfl (by decide) (by unfold SeqAgrees; decide) (by unfold PinsRest; decide) rfl rfl
    (by unfold SyncAgrees; decide)

/-- A filled block in the middle of INIT. -/
def running : State := { at_ .initializing .in1 with fb := memFilled }

theorem inv_running : Inv running :=
  inv_filled running rfl (by decide) (by unfold SeqAgrees; decide) (by unfold PinsRest; decide) rfl rfl
    (by unfold SyncAgrees; decide)

/-- The block where SETUP's SU0 stands. -/
theorem inv_su0 : Inv (at_ .uninitialized .su0) := by
  refine ⟨by unfold SeqAgrees; decide, ⟨by decide, fun _ => rfl, fun h => absurd rfl h⟩, by unfold PinsRest; decide,
    by unfold DatapathInRange; decide, ⟨fun _ => rfl, fun _ => rfl⟩, by unfold SyncAgrees; decide⟩

theorem witness_EncodedInstructionDecodes :
    Params.suggested.distinct ∧
    encode Params.suggested (.setup true true 0xFFFFFFFF#32) =
      some (.request { Request.none with
        setupReq := true, cfgHasReset := true, cfgHasBusy := true, cfgFullUpdateEvery := 0xFFFFFFFF#32 }) ∧
    encode Params.suggested .deepSleep = some (.opcode 0x10#8) ∧
    encode Params.suggested (.fbRead 8191#13) = some (.port 8191#13) := by decide

theorem witness_OpcodeByteIsOneOfNine : decode Params.suggested (.opcode 0x45#8) = .ok .setYRange := rfl

theorem witness_CommandBytesReadBack :
    Params.suggested.distinct ∧ (rowOfInstr Params.suggested .writeRam).isSome = true ∧
    (rowOfInstr Params.suggested .swreset).isSome = true ∧
    (List.replicate Config.fbBytes 0#8).length = Config.fbBytes :=
  ⟨by decide, by decide, by decide, List.length_replicate⟩

theorem witness_StepRunsFetchedInstruction :
    ((at_ .initializing .in2).env.inputs.rst = .low ∧ fetch (at_ .initializing .in2) = some .swreset ∧
      (at_ .initializing .in2).seq.busy = true) ∧
    ((ask 0b0010#4 idle).env.inputs.rst = .low ∧ fetch (ask 0b0010#4 idle) = some .update ∧
      (ask 0b0010#4 idle).seq.busy = false ∧ arbitrate (ask 0b0010#4 idle) = some .update) ∧
    (idle.env.inputs.rst = .low ∧ fetch idle = some (.fbRead 0) ∧ idle.seq.busy = false ∧ arbitrate idle = none) := by decide

theorem witness_PlacedWordIsFetched :
    decodeTableWord 8 0b1000 = some (.setPixel 0#16 0#16 false) ∧ decodeTableWord 8 0x24 = some .writeRam ∧
    decodeTableWord 16 8191 = some (.fbRead 8191#13) := by decide

/-- One state for each clause. -/
theorem witness_RequestPriority :
    ((at_ .drawing .dr1).seq.busy = true) ∧ ((withRst .high idle).env.inputs.rst = .high) ∧
    (∀ s ∈ [ask 0b1111#4 idle, ask 0b0111#4 idle, ask 0b0101#4 idle, ask 0b0001#4 idle, ask 0b1111#4 asleep,
      ask 0b0111#4 asleep, ask 0b1111#4 State.reset, ask 0b1110#4 State.reset],
      s.seq.busy = false ∧ s.env.inputs.rst ≠ .high) ∧
    (∀ s ∈ [ask 0b1111#4 idle, ask 0b0111#4 idle, ask 0b0101#4 idle, ask 0b0001#4 idle], s.seq.stage = .idle) ∧
    (∀ s ∈ [ask 0b1111#4 asleep, ask 0b0111#4 asleep], s.seq.stage = .sleeping) ∧
    (∀ s ∈ [ask 0b1111#4 State.reset, ask 0b1110#4 State.reset], s.seq.stage = .uninitialized) ∧
    (∀ s ∈ [ask 0b0101#4 idle, ask 0b0001#4 idle],
      s.env.inputs.request.pxWe = false ∧ s.env.inputs.request.updateReq = false) ∧
    (ask 0b1111#4 idle).env.inputs.request.pxWe = true ∧
    (ask 0b0111#4 idle).env.inputs.request.pxWe = false ∧ (ask 0b0111#4 idle).env.inputs.request.updateReq = true ∧
    (ask 0b0101#4 idle).env.inputs.request.updateReq = false ∧ (ask 0b0101#4 idle).env.inputs.request.sleepReq = true ∧
    (ask 0b0001#4 idle).env.inputs.request.sleepReq = false ∧
    (ask 0b1111#4 asleep).env.inputs.request.pxWe = true ∧ (ask 0b0111#4 asleep).env.inputs.request.pxWe = false ∧
    (ask 0b1111#4 State.reset).env.inputs.request.setupReq = true ∧
    (ask 0b1110#4 State.reset).env.inputs.request.setupReq = false := by decide

theorem witness_IdleStepChangesNothing :
    (ask 0b0111#4 asleep).env.inputs.rst = .low ∧ (ask 0b0111#4 asleep).seq.busy = false ∧
    arbitrate (ask 0b0111#4 asleep) = none := by decide

theorem witness_SetupAccepted : State.reset.seq.busy = false ∧ State.reset.env.inputs.rst ≠ .high ∧
    State.reset.seq.stage = .uninitialized := by decide

/-- Of UpdateAccepted and SleepAccepted. -/
theorem witness_UpdateAccepted : idle.seq.busy = false ∧ idle.env.inputs.rst ≠ .high ∧ idle.seq.stage = .idle := by decide

/-- Each reason for which a request is not accepted. -/
theorem witness_RequestNotAccepted :
    (at_ .drawing .dr1).seq.busy = true ∧ (withRst .high idle).env.inputs.rst = .high ∧
    (State.reset.seq.stage ≠ .idle ∧ State.reset.seq.stage ≠ .sleeping) ∧ asleep.seq.stage ≠ .idle ∧
    idle.seq.stage ≠ .uninitialized := by decide

/-- In bounds at both corners; out of bounds on each of the four sides. -/
theorem witness_SetPixelWritesOneBit :
    (ready.seq.busy = false ∧ ready.env.inputs.rst ≠ .high ∧ ready.seq.stage = .idle) ∧
    (readyAsleep.seq.busy = false ∧ readyAsleep.env.inputs.rst ≠ .high ∧ readyAsleep.seq.stage = .sleeping) ∧
    (∀ x y : Coord, (x, y) = (0, 0) ∨ (x, y) = (151, 295) →
      0 ≤ x.toInt ∧ x.toInt < 152 ∧ 0 ≤ y.toInt ∧ y.toInt < 296) ∧
    (∀ x y : Coord, (x, y) = (0xFFFF#16, 0) ∨ (x, y) = (152, 0) ∨ (x, y) = (0, 0xFFFF#16) ∨ (x, y) = (0, 296) →
      ¬(0 ≤ x.toInt ∧ x.toInt < 152 ∧ 0 ≤ y.toInt ∧ y.toInt < 296)) := by
  refine ⟨⟨rfl, nofun, rfl⟩, ⟨rfl, nofun, rfl⟩, fun x y h => ?_, fun x y h => ?_⟩
  · rcases h with h | h <;> cases h <;> decide
  · rcases h with h | h | h | h <;> cases h <;> decide

/-- The inner hypothesis of the same statement, at the first and the last byte. -/
theorem witness_SetPixelWritesOneBit_old : memRead ready.fb ((0 + 0 * 152) / 8) = some 0xFF#8 ∧
    memRead ready.fb ((151 + 295 * 152) / 8) = some 0xFF#8 :=
  ⟨memRead_memFilled 0, memRead_memFilled 5623⟩

theorem witness_SetPixelOutOfBounds :
    (idle.seq.busy = false ∧ idle.env.inputs.rst ≠ .high ∧ idle.seq.stage = .idle) ∧
    (0xFFFF#16 : Coord).toInt < 0 ∧ (0x8000#16 : Coord).toInt < 0 ∧ 152 ≤ (152#16 : Coord).toInt ∧
    296 ≤ (296#16 : Coord).toInt ∧ 296 ≤ (0x7FFF#16 : Coord).toInt := by decide

theorem witness_SetPixelReadsBack :
    (∀ a < 5624, (memRead ready.fb a).isSome = true) ∧ accepts ready .setPixel = true ∧ inBounds 151 295 = true ∧
    (∃ t, exec (.setPixel 151 295 false) ready = .next t) ∧ inBounds 150 295 = true ∧
    ((150 : Coord), (295 : Coord)) ≠ (151, 295) :=
  ⟨memFilled_isSome, by decide, by decide, exec_next _ _, by decide, by decide⟩

theorem witness_FbReadAnswersByte : (readyAsleep.seq.stage = .sleeping ∧ readyAsleep.seq.busy = false ∧
    (5623#13).toNat < 5624) ∧ memRead readyAsleep.fb (5623#13).toNat = some 0xFF#8 ∧ ready.seq.stage = .idle ∧
    memRead ready.fb (0#13).toNat = some 0xFF#8 :=
  ⟨by decide, memRead_memFilled 5623, by decide, memRead_memFilled 0⟩

/-- Each way to be outside the read port's domain. -/
theorem witness_FbReadOutsideDomain :
    (State.reset.seq.stage ≠ .idle ∧ State.reset.seq.stage ≠ .sleeping) ∧ (at_ .sleeping .sl1).seq.busy = true ∧
    5624 ≤ (5624#13).toNat := by decide

theorem witness_EveryInstructionKeepsFraming : ∃ t, exec .setYRange State.reset = .next t := ⟨_, rfl⟩

/-- A well-formed instruction of one frame, one of several, and the frame block. -/
theorem witness_EveryInstructionEmitsWholeFrames :
    ((Instr.sendCmd 0x12#8).wellFormed State.reset.params = true ∧ ∃ t, exec (.sendCmd 0x12#8) State.reset = .next t) ∧
    (Instr.setYRange.wellFormed State.reset.params = true ∧ ∃ t, exec .setYRange State.reset = .next t) ∧
    (Instr.writeRam.wellFormed ready.params = true ∧ ∃ t, exec .writeRam ready = .next t) ∧
    ((Instr.sendBlock .rowFetch).wellFormed ready.params = true ∧ ∃ t, exec (.sendBlock .rowFetch) ready = .next t) :=
  ⟨⟨rfl, exec_next _ _⟩, ⟨rfl, exec_next _ _⟩, ⟨rfl, exec_next _ _⟩, ⟨rfl, exec_next _ _⟩⟩

/-- A step of one clock edge, a step of a sequence, and SETUP's acceptance. -/
theorem witness_SynchronizerIsClocked :
    (SyncAgrees idle ∧ idle.env.inputs.rst = .low ∧ idle.seq.busy = false ∧
      ∃ t, step idle = .next t ∧ t.pins.setupAck = false) ∧
    (SyncAgrees running ∧ running.env.inputs.rst = .low ∧ running.seq.busy = true ∧ ∃ t, step running = .next t) ∧
    (SyncAgrees (ask 0b0001#4 State.reset) ∧ (ask 0b0001#4 State.reset).env.inputs.rst = .low ∧
      ∃ t, step (ask 0b0001#4 State.reset) = .next t ∧ t.pins.setupAck = true) :=
  ⟨⟨by unfold SyncAgrees; decide, rfl, rfl, ⟨_, rfl, rfl⟩⟩, ⟨inv_running.2.2.2.2.2, rfl, rfl, ⟨_, rfl⟩⟩,
    ⟨by unfold SyncAgrees; decide, rfl, ⟨_, rfl, rfl⟩⟩⟩

/-- As many clock edges as stages, and more. -/
theorem witness_BusyQFollowsLine : SyncAgrees idle ∧ idle.params.syncStages ≤ 2 ∧ idle.params.syncStages ≤ 5000 := by
  unfold SyncAgrees; decide

/-- A step that lowers `ready`, one that raises it, one that leaves it. -/
theorem witness_ReadyFollowsSequence :
    (SeqAgrees (ask 0b0010#4 ready) ∧ (ask 0b0010#4 ready).env.inputs.rst = .low ∧
      (outputs (ask 0b0010#4 ready)).ready = true ∧ ∃ t, step (ask 0b0010#4 ready) = .next t) ∧
    (SeqAgrees (at_ .sleeping .sl1) ∧ (at_ .sleeping .sl1).env.inputs.rst = .low ∧
      (outputs (at_ .sleeping .sl1)).ready = false ∧ ∃ t, step (at_ .sleeping .sl1) = .next t) ∧
    (SeqAgrees (ask 0b1000#4 idle) ∧ (ask 0b1000#4 idle).env.inputs.rst = .low ∧
      (outputs (ask 0b1000#4 idle)).ready = true ∧ ∃ t, step (ask 0b1000#4 idle) = .next t) :=
  ⟨⟨by unfold SeqAgrees; decide, rfl, rfl, ⟨_, rfl⟩⟩, ⟨by unfold SeqAgrees; decide, rfl, rfl, ⟨_, rfl⟩⟩,
    ⟨by unfold SeqAgrees; decide, rfl, rfl, ⟨_, rfl⟩⟩⟩

/-- A step that sends a byte in command mode, whole and cut. -/
theorem witness_CommandBytesAreOpcodes :
    (∃ t, step (at_ .initializing .in2) = .next t ∧
      (BusMode.cmd, 0x12#8) ∈ classify .data ((emittedSince (at_ .initializing .in2) t).map Stamped.event)) ∧
    (∃ t, step (withRst (.during 4) (at_ .initializing .in2)) = .next t ∧
      (BusMode.cmd, 0x12#8) ∈
        classify .data ((emittedSince (withRst (.during 4) (at_ .initializing .in2)) t).map Stamped.event)) :=
  ⟨⟨_, rfl, by decide⟩, ⟨_, rfl, by decide⟩⟩

theorem witness_WaitWithoutBusyLine : (line false [true] State.reset).ctl.hasBusy = false := rfl

/-- The first sample idle, and the last that can be. -/
theorem witness_WaitSucceeds :
    ((line true [false] State.reset).ctl.hasBusy = true ∧ 0 ≤ 200 ∧
      (∀ j < 0, busyLine (line true [false] State.reset) j = true) ∧ busyLine (line true [false] State.reset) 0 = false) ∧
    ((line true (List.replicate 200 true ++ [false]) State.reset).ctl.hasBusy = true ∧ 200 ≤ 200 ∧
      (∀ j < 200, busyLine (line true (List.replicate 200 true ++ [false]) State.reset) j = true) ∧
      busyLine (line true (List.replicate 200 true ++ [false]) State.reset) 200 = false) := by
  refine ⟨⟨rfl, by decide, by decide, rfl⟩, ⟨rfl, by decide, fun j hj => ?_, rfl⟩⟩
  unfold busyLine line
  rw [List.getElem?_append_left (by rw [List.length_replicate]; exact hj), List.getElem?_replicate, if_pos hj]

theorem witness_WaitTimesOut :
    (line true (List.replicate 201 true) State.reset).ctl.hasBusy = true ∧
    ∀ j ≤ 200, busyLine (line true (List.replicate 201 true) State.reset) j = true :=
  ⟨rfl, fun _ hj => busyLine_line rfl (by omega)⟩

theorem witness_BlockResetStep : (withRst .high (at_ .drawing .dr6)).env.inputs.rst = .high := rfl

/-- A cut before the first micro-operation and one in the middle. -/
theorem witness_ResetCutsSequence :
    ∀ k ∈ [0, 3], (withRst (.during k) (at_ .initializing .in2)).env.inputs.rst = .during k ∧
      (withRst (.during k) (at_ .initializing .in2)).seq.busy = true ∧
      ∃ u, step { withRst (.during k) (at_ .initializing .in2) with env.inputs.rst := .low } = .next u :=
  fun _ _ => ⟨rfl, rfl, ⟨_, rfl⟩⟩

theorem witness_InvariantKept : (Inv ready ∧ ∃ t, step ready = .next t) ∧ (Inv running ∧ ∃ t, step running = .next t) ∧
    (Inv (at_ .uninitialized .su0) ∧ ∃ t, step (at_ .uninitialized .su0) = .next t) :=
  ⟨⟨inv_ready, ⟨_, rfl⟩⟩, ⟨inv_running, ⟨_, rfl⟩⟩, ⟨inv_su0, ⟨_, rfl⟩⟩⟩

theorem witness_NoStepStops : Inv running ∧ Inv ready := ⟨inv_running, inv_ready⟩

/-- A step that makes a move of the table, and a block reset. -/
theorem witness_StageTransitions :
    (SeqAgrees (ask 0b0010#4 ready) ∧ ∃ t, step (ask 0b0010#4 ready) = .next t ∧ t.seq.stage = .drawing) ∧
    (SeqAgrees (withRst .high running) ∧ ∃ t, step (withRst .high running) = .next t ∧ t.seq.stage = .uninitialized) :=
  ⟨⟨by unfold SeqAgrees; decide, ⟨_, rfl, rfl⟩⟩, ⟨by unfold SeqAgrees; decide, ⟨_, rfl, rfl⟩⟩⟩

theorem witness_SleepingIsTerminal :
    (SeqAgrees asleep ∧ asleep.seq.stage = .sleeping ∧ asleep.env.inputs.rst = .low ∧ asleep.seq.busy = false) ∧
    (SeqAgrees (at_ .sleeping .sl1) ∧ (at_ .sleeping .sl1).seq.stage = .sleeping ∧
      (at_ .sleeping .sl1).env.inputs.rst = .low) := by
  unfold SeqAgrees; decide

/-- Bits 0 and 3 set. -/
theorem witness_TimeoutBitsSticky :
    ({ idle with ctl.timeoutSeen := 0b1001#4 } : State).env.inputs.rst = .low ∧
    (∃ t, step { idle with ctl.timeoutSeen := 0b1001#4 } = .next t) ∧ (0b1001#4 : BitVec 4).getLsbD 0 = true ∧
    (0b1001#4 : BitVec 4).getLsbD 3 = true := ⟨rfl, ⟨_, rfl⟩, rfl, rfl⟩

/-- A pixel write that changes a byte, and a SETUP's FILL at the last byte. -/
theorem witness_OnlyFillAndSetPixelWriteFb :
    (∃ t, step (askPixel 0 0 false { idle with fb := [(0, 0xFF#8)] }) = .next t ∧
      memRead t.fb 0 ≠ memRead (askPixel 0 0 false { idle with fb := [(0, 0xFF#8)] }).fb 0) ∧
    (∃ t, step (ask 0b0001#4 State.reset) = .next t ∧ memRead t.fb 5623 ≠ memRead (ask 0b0001#4 State.reset).fb 5623) := by
  refine ⟨⟨_, rfl, by decide⟩, ⟨_, rfl, ?_⟩⟩
  show memRead memFilled 5623 ≠ none
  rw [memRead_memFilled]
  decide

theorem witness_NothingAcceptedWhileBusy :
    (ask 0b1111#4 running).seq.busy = true ∧ (ask 0b1111#4 running).env.inputs.rst = .low ∧
    (∃ t, step (ask 0b1111#4 running) = .next t) ∧ (ask 0b1111#4 running).seq.label ≠ .su0 :=
  ⟨rfl, rfl, ⟨_, rfl⟩, by decide⟩

theorem witness_SequenceIsNeverDiverted : running.seq.busy = true ∧ running.seq.label ≠ .none ∧
    running.env.inputs.rst = .low := by decide

/-- A step that emits events. -/
theorem witness_TraceGrowsInOrder : ∃ t, step (at_ .initializing .in2) = .next t ∧
    (emittedSince (at_ .initializing .in2) t).length = 4 := ⟨_, rfl, rfl⟩

/-- A step that loads the configuration, and one that does not. -/
theorem witness_ConfigurationLatchedAtSetup :
    (∃ t, step (ask 0b0001#4 State.reset) = .next t ∧ t.pins.setupAck = true) ∧
    (∃ t, step (ask 0b0001#4 idle) = .next t ∧ t.pins.setupAck = false) ∧ idle.env.inputs.rst = .low :=
  ⟨⟨_, rfl, rfl⟩, ⟨_, rfl, rfl⟩, rfl⟩

/-- SM10's two states: a threshold of 1 and one of 1000, and two counts. -/
theorem witness_CountsAreNeverConsulted :
    withoutCounts { idle with ctl.fullUpdateEvery := 1#32, ctl.updateCount := 7#32 } =
      withoutCounts { idle with ctl.fullUpdateEvery := 1000#32, ctl.updateCount := 0xFFFFFFFF#32 } ∧
    ({ idle with ctl.fullUpdateEvery := 1#32 } : State) ≠ { idle with ctl.fullUpdateEvery := 1000#32 } :=
  ⟨rfl, by decide⟩

/-- With and without a reset line, with and without a busy line. -/
theorem witness_SetupRunsToIdle :
    ∀ hr ∈ [true, false], ∀ hb ∈ [true, false],
      ∀ s, s = { ask 0b0001#4 State.reset with
          env.inputs.request.cfgHasReset := hr, env.inputs.request.cfgHasBusy := hb } →
        s.seq = ⟨.uninitialized, .none, false⟩ ∧ s.env.inputs.request.setupReq = true ∧ NoReset s := by
  rintro hr - hb - s rfl
  exact ⟨rfl, rfl, rfl, fun _ h => nomatch h⟩

theorem witness_UpdateRunsToIdle :
    FreeFor .idle (ask 0b0010#4 ready) ∧ (ask 0b0010#4 ready).env.inputs.request.updateReq = true ∧
    NoReset (ask 0b0010#4 ready) := ⟨⟨rfl, rfl⟩, rfl, rfl, fun _ h => nomatch h⟩

theorem witness_UpdateIsIdempotent : ∃ t u : State,
    FreeFor .idle (ask 0b0010#4 ready) ∧ (ask 0b0010#4 ready).env.inputs.request.updateReq = true ∧
    NoReset (ask 0b0010#4 ready) ∧ runSteps 6 (ask 0b0010#4 ready) = .next t ∧
    t.env.inputs.request.pxWe = false ∧ t.env.inputs.request.updateReq = true ∧ runSteps 6 t = .next u := by
  obtain ⟨t, ht, hti, hts, htl⟩ := runSteps_next 6 (ask 0b0010#4 ready) rfl rfl (by decide)
  obtain ⟨u, hu, -⟩ := runSteps_next 6 t (hti ▸ rfl) hts htl
  exact ⟨t, u, ⟨rfl, rfl⟩, rfl, ⟨rfl, fun _ h => nomatch h⟩, ht, hti ▸ rfl, hti ▸ rfl, hu⟩

theorem witness_SleepRunsToSleeping :
    FreeFor .idle (ask 0b0100#4 ready) ∧ (ask 0b0100#4 ready).env.inputs.request.updateReq = false ∧
    (ask 0b0100#4 ready).env.inputs.request.sleepReq = true ∧ NoReset (ask 0b0100#4 ready) :=
  ⟨⟨rfl, rfl⟩, rfl, rfl, rfl, fun _ h => nomatch h⟩

end Sys2Proof.Tests
end

section
/-! PROOFS, family 10_state: what a step leaves, one case a kind of step. -/

namespace Sys2Proof.Machine

/-! ### The acknowledge pulse of each request (R232) -/

@[simp] theorem raiseAck_setup_pins (s : State) :
    (raiseAck .setup s).pins = { s.pins with setupAck := true } := rfl
@[simp] theorem raiseAck_update_pins (s : State) :
    (raiseAck .update s).pins = { s.pins with updateAck := true } := rfl
@[simp] theorem raiseAck_sleep_pins (s : State) :
    (raiseAck .sleep s).pins = { s.pins with sleepAck := true } := rfl
@[simp] theorem raiseAck_setPixel_pins (s : State) :
    (raiseAck .setPixel s).pins = { s.pins with pxAck := true } := rfl

/-! ### What a list of actions keeps -/

@[simp] theorem runMicros_setupAck (ms : List Micro) (s : State) :
    (runMicros ms s).pins.setupAck = s.pins.setupAck := by
  induction ms generalizing s with
  | nil => rfl
  | cons m ms ih => exact (ih _).trans (by cases m <;> rfl)

/-- No action clears a bit of TIMEOUT_SEEN (R29). -/
theorem runMicros_timeoutSeen (ms : List Micro) (s : State) (w : Nat) (h : s.ctl.timeoutSeen.getLsbD w = true) :
    (runMicros ms s).ctl.timeoutSeen.getLsbD w = true := by
  induction ms generalizing s with
  | nil => exact h
  | cons m ms ih =>
    refine ih _ ?_
    cases m with
    | timeout v => simp [runMicro, h]
    | _ => exact h

/-- Every action keeps the number of stages of the synchronizer (R39). -/
theorem syncAgrees_runMicros (ms : List Micro) {s : State} (h : SyncAgrees s) : SyncAgrees (runMicros ms s) := by
  induction ms generalizing s with
  | nil => exact h
  | cons m ms ih =>
    refine ih ?_
    obtain ⟨hpos, hlen⟩ := h
    cases m with
    | sample b =>
      refine ⟨hpos, ?_⟩
      simp only [runMicro, takeSample_busySync, takeSample_params, syncAfter, List.length_append, List.length_map,
        List.length_range, List.length_singleton]
      omega
    | _ => exact ⟨hpos, hlen⟩

/-! ### The kinds of a step -/

/-- What a step from `s` can leave: a block reset (of the block as it was, or in the middle of an action); the action at STEP,
whole; one of the four requests, accepted; or the read port alone. -/
inductive StepsTo (s : State) : State → Prop
  | reset (u : State) (hr : s.env.inputs.rst ≠ .low) (hp : u.params = s.params) : StepsTo s (endStep 0 (blockReset u))
  | action (act : SeqAction) (hr : s.env.inputs.rst = .low) (hb : s.seq.busy = true)
      (ha : labelAction s.seq.label = some act) :
      StepsTo s
        (endStep s.params.syncStages (advanceSeq (runMicros (actionMicros act (clearPulses s)) (clearPulses s))))
  | pixel (hb : s.seq.busy = false) (hst : s.seq.stage = .idle ∨ s.seq.stage = .sleeping) :
      StepsTo s
        (endStep 1 (raiseAck .setPixel (writePixel s.env.inputs.request.pxX s.env.inputs.request.pxY
          s.env.inputs.request.pxOn (clearPulses s))))
  | update (hb : s.seq.busy = false) (hst : s.seq.stage = .idle) :
      StepsTo s (endStep 1 (raiseAck .update (startUpdate (clearPulses s))))
  | sleep (hb : s.seq.busy = false) (hst : s.seq.stage = .idle) :
      StepsTo s (endStep 1 (raiseAck .sleep (startSleep (clearPulses s))))
  | setup (hb : s.seq.busy = false) (hst : s.seq.stage = .uninitialized) :
      StepsTo s
        (endStep s.params.syncStages (raiseAck .setup (startSetup s.env.inputs.request.cfgHasReset
          s.env.inputs.request.cfgHasBusy s.env.inputs.request.cfgFullUpdateEvery (clearPulses s))))
  | port (hb : s.seq.busy = false) : StepsTo s (endStep 1 (clearPulses s))

/-! The rows of the legality table (R233), read backwards. -/

theorem legalIn_setPixel {st : Stage} : legalIn st .setPixel = true ↔ st = .idle ∨ st = .sleeping := by
  cases st <;> decide
theorem legalIn_update {st : Stage} : legalIn st .update = true ↔ st = .idle := by cases st <;> decide
theorem legalIn_sleep {st : Stage} : legalIn st .sleep = true ↔ st = .idle := by cases st <;> decide
theorem legalIn_setup {st : Stage} : legalIn st .setup = true ↔ st = .uninitialized := by cases st <;> decide

/-- An accepted request is one of the four, in a stage that allows it. -/
theorem stepsTo_of_arbitrate {s u : State} {i : Instr} (hi : arbitrate s = some i)
    (hu : exec i (clearPulses s) = .next u) : StepsTo s (endStep (edgesOf i s.params) u) := by
  rcases selectRequest_cases hi with ⟨rfl, -, hacc⟩ | ⟨rfl, -, hacc, -⟩ | ⟨rfl, -, hacc, -⟩ | ⟨rfl, -, hacc, -⟩ <;>
    obtain ⟨hb, -, hl⟩ := accepts_true.mp hacc <;>
    simp only [exec, execSetPixel, execUpdate, execSleep, execSetup, accepts_clearPulses, hacc, if_true,
      Host.Outcome.next.injEq] at hu <;>
    subst hu
  · exact .pixel hb (legalIn_setPixel.mp hl)
  · exact .update hb (legalIn_update.mp hl)
  · exact .sleep hb (legalIn_sleep.mp hl)
  · exact .setup hb (legalIn_setup.mp hl)

/-- Every step that answers a next state is of one of the kinds. -/
theorem stepsTo_of_step {s t : State} (h : step s = .next t) : StepsTo s t := by
  rcases step_cases h with ⟨hr, u, rfl, hu⟩ | ⟨hr, hb, act, ha, rfl⟩ | ⟨-, hb, hreq⟩
  · refine .reset u hr ?_
    rcases hu with rfl | ⟨k, act, -, -, -, rfl⟩
    · rfl
    · simp
  · exact .action act hr hb ha
  · rcases hreq with ⟨i, u, hi, hu, rfl⟩ | ⟨-, rfl⟩
    · exact stepsTo_of_arbitrate hi hu
    · exact .port hb

/-! ### The kinds of a sequencer action -/

/-- The state after DELAY (R220). -/
def afterDelay (n : BitVec 8) (s : State) : State :=
  { s with time := s.time + n.toNat, dp.delayCnt := 0#8, dp.tickDiv := 0 }

/-- The state after RESET_PULSE (R173): three levels on the reset line, 402 ms. -/
def afterPulse (s : State) : State :=
  { s with
    trace := s.trace ++ [⟨s.time, .rst true⟩, ⟨s.time + 200, .rst false⟩, ⟨s.time + 202, .rst true⟩]
    time := s.time + 402
    pins.rstOut := true
    dp.delayCnt := 0#8
    dp.tickDiv := 0 }

theorem runMicros_resetPulse (s : State) : runMicros resetPulseMicros s = afterPulse s := by
  simp [resetPulseMicros, runMicros_delay, runMicro, driveRst, emit, afterPulse, Config.rstHighMs, Config.rstLowMs]

/-- What the action at a label leaves of a state: FILL, the reset line's levels and delays, a wait that goes one of its three
ways, frames on the bus, the frame of FB. -/
inductive ActionLeaves (s : State) : Label → State → Prop
  | fill : ActionLeaves s .su0 (fillFb s)
  | pulse : ActionLeaves s .rs1 (afterPulse s)
  | low : ActionLeaves s .rs3 (driveRst false s)
  | high : ActionLeaves s .rs5 (driveRst true s)
  | delay {l : Label} (n : BitVec 8) (hl : l ≠ .rs3 ∧ l ≠ .rs5) : ActionLeaves s l (afterDelay n s)
  | waitSkipped {l : Label} (hl : l ≠ .rs3 ∧ l ≠ .rs5) : ActionLeaves s l { s with ctl.waitOk := true }
  | waitOk {l : Label} (k : Nat) (hl : l ≠ .rs3 ∧ l ≠ .rs5) (hk : k ≤ 200) : ActionLeaves s l (afterWaitOk k s)
  | waitTimeout {l : Label} (w : Site) (hl : l ≠ .rs3 ∧ l ≠ .rs5) (hb : s.ctl.hasBusy = true) :
      ActionLeaves s l (afterWaitTimeout w s)
  | bus {l : Label} (m : BusMode) (b : Byte) (es : List Event) (hl : l ≠ .rs3 ∧ l ≠ .rs5) :
      ActionLeaves s l (afterBus m b es s)
  | frame {l : Label} (b : Byte) (es : List Event) (hl : l ≠ .rs3 ∧ l ≠ .rs5) :
      ActionLeaves s l
        { afterBus .data b es s with dp := { s.dp with rowCnt := 295#9, colCnt := 18#5, fbAddr := 18#13 } }

theorem actionLeaves_wait (s : State) {l : Label} (w : Site) (hl : l ≠ .rs3 ∧ l ≠ .rs5) :
    ActionLeaves s l (runMicros (waitMicros w s) s) := by
  rcases waitMicros_cases w s with ⟨-, h⟩ | ⟨-, k, hk, -, -, h⟩ | ⟨hb, -, h⟩ <;> rw [h]
  · exact .waitSkipped hl
  · exact .waitOk k hl hk
  · exact .waitTimeout w hl hb

theorem actionLeaves_data (s : State) {l : Label} (b : Byte) (hl : l ≠ .rs3 ∧ l ≠ .rs5) :
    ActionLeaves s l (runMicros (dataMicros b) s) :=
  runMicros_data b s ▸ .bus .data b _ hl

theorem actionLeaves_cmd (s : State) {l : Label} (op : Byte) (hl : l ≠ .rs3 ∧ l ≠ .rs5) :
    ActionLeaves s l (runMicros (paramCmdMicros op []) s) :=
  runMicros_paramCmd_nil op s ▸ .bus .cmd op _ hl

theorem actionLeaves_paramCmd (s : State) {l : Label} (op : Byte) (bs : List Byte) (b : Byte)
    (hl : l ≠ .rs3 ∧ l ≠ .rs5) : ActionLeaves s l (runMicros (paramCmdMicros op (bs ++ [b])) s) :=
  runMicros_paramCmd op bs b s ▸ .bus .data b _ hl

theorem actionLeaves_block (s : State) {l : Label} (hl : l ≠ .rs3 ∧ l ≠ .rs5) :
    ActionLeaves s l (runMicros (blockMicros .rowFetch) s) :=
  runMicros_block_rowFetch s ▸ .frame _ _ hl

theorem actionLeaves_writeRam (s : State) {l : Label} (hl : l ≠ .rs3 ∧ l ≠ .rs5) :
    ActionLeaves s l (runMicros (writeRamMicros s.params) s) := by
  rw [writeRamMicros, runMicros_append, runMicros_cmd, runMicros_block_rowFetch, afterBus_afterBus]
  exact .frame _ _ hl

/-- The action at every label is of one of the kinds. -/
theorem actionLeaves_of_labelAction {l : Label} {act : SeqAction} (h : labelAction l = some act) (s : State) :
    ActionLeaves s l (runMicros (actionMicros act s) s) := by
  cases l <;> simp only [labelAction, Option.some.injEq, reduceCtorEq] at h <;> subst h
  case su0 => exact .fill
  case rs1 => exact runMicros_resetPulse s ▸ .pulse
  case rs2 | rs4 | rs6 => exact runMicros_delay _ s ▸ .delay _ (by decide)
  case rs3 => exact .low
  case rs5 => exact .high
  case in1 | in3 | in14 | rf2 => exact actionLeaves_wait s _ (by decide)
  case in2 | rf1 => exact actionLeaves_cmd s _ (by decide)
  case in4 | dr1 | sl1 => exact actionLeaves_paramCmd s _ [] _ (by decide)
  case in6 => exact actionLeaves_paramCmd s _ [Config.xStart] _ (by decide)
  case in9 => exact actionLeaves_paramCmd s _ [_, _, _] _ (by decide)
  case dr3 => exact actionLeaves_paramCmd s _ [_] _ (by decide)
  case dr6 => exact actionLeaves_writeRam s (by decide)
  case dr7 => exact actionLeaves_block s (by decide)
  all_goals exact actionLeaves_data s _ (by decide)

end Sys2Proof.Machine
end

section
/-! PROOFS, family 10_state: the invariant at reset and along every step. -/

namespace Sys2Proof.Machine

/-! ### What the invariant does not look at -/

@[simp] theorem length_busySync_endStep (n : Nat) (s : State) : (endStep n s).busySync.length = s.busySync.length := by
  simp [endStep]

theorem inv_endStep (n : Nat) (s : State) : Inv (endStep n s) ↔ Inv s := by
  simp [Inv, SeqAgrees, FbAgrees, PinsRest, DatapathInRange, TimeoutsAgree, SyncAgrees]

theorem inv_clearPulses (s : State) : Inv (clearPulses s) ↔ Inv s := Iff.rfl

theorem inv_raiseAck (op : HostOp) (s : State) : Inv (raiseAck op s) ↔ Inv s := by cases op <;> rfl

/-! ### Reset -/

/-- The values of the reset table satisfy the invariant on every board with a synchronizer. -/
theorem inv_resetWith {p : Params} (h : 0 < p.syncStages) : Inv (State.resetWith p) := by
  refine ⟨?seq, ?fb, ?pins, ?dp, ?timeouts, h, List.length_replicate⟩
  case seq => exact ⟨rfl, .inl rfl⟩
  case fb => exact ⟨memWf_nil, fun _ => rfl, fun hne => absurd rfl hne⟩
  case pins => exact ⟨rfl, rfl, rfl⟩
  case dp => simp [DatapathInRange, State.resetWith, Datapath.atReset, Config.fbBytes]
  case timeouts => exact ⟨fun _ => rfl, fun _ => rfl⟩

theorem inv_blockReset {s : State} (h : 0 < s.params.syncStages) : Inv (blockReset s) :=
  inv_resetWith (p := s.params) h

/-! ### The accepted requests -/

/-- What the invariant says of a state without a sequence. -/
theorem Inv.label_of_not_busy {s : State} (h : Inv s) (hb : s.seq.busy = false) : s.seq.label = .none := by
  obtain ⟨hseq, -⟩ := h
  rw [SeqAgrees, hb] at hseq
  exact hseq.1

/-- Without a sequence the reset line is high. -/
theorem Inv.pinsRest_of_not_busy {s : State} (h : Inv s) (hb : s.seq.busy = false) :
    s.pins.csOut = (!s.params.csActiveLevel) ∧ s.pins.txValid = false ∧ s.pins.rstOut = true := by
  have hl := h.label_of_not_busy hb
  obtain ⟨-, -, ⟨hcs, htx, hrst⟩, -⟩ := h
  exact ⟨hcs, htx, by simpa [hl] using hrst⟩

/-- After FILL the buffer has all its values. -/
theorem fbAgrees_of_memFilled {s : State} (hfb : s.fb = memFilled) (hst : s.seq.stage ≠ .uninitialized) : FbAgrees s := by
  refine ⟨hfb ▸ memWf_memFilled, fun h => absurd h hst, fun _ a ha => ?_⟩
  rw [hfb, memRead_memFilled, if_pos ha]
  rfl

/-- A write leaves no byte without a value that had one. -/
theorem isSome_memRead_memWrite {m : List Host.Cell} {a b : Nat} {v : Byte} (h : (memRead m b).isSome = true) :
    (memRead (memWrite m a v) b).isSome = true := by
  by_cases hba : b = a
  · rw [hba, memRead_memWrite_same]; rfl
  · rwa [memRead_memWrite_other m v hba]

theorem fbAgrees_writePixel {s : State} (x y : Coord) (on : Bool) (h : FbAgrees s) (hst : s.seq.stage ≠ .uninitialized) :
    FbAgrees (writePixel x y on s) := by
  obtain ⟨hwf, -, hall⟩ := h
  refine ⟨memWf_writePixel x y on hwf, fun hu => absurd (writePixel_seq s x y on ▸ hu) hst, fun _ a ha => ?_⟩
  by_cases hin : inBounds x y = true
  · rw [writePixel_fb_in s hin]
    exact isSome_memRead_memWrite (hall hst a ha)
  · rw [writePixel_out s (by simpa using hin)]
    exact hall hst a ha

theorem datapathInRange_writePixel {s : State} (x y : Coord) (on : Bool) (h : DatapathInRange s) :
    DatapathInRange (writePixel x y on s) := by
  by_cases hin : inBounds x y = true
  · obtain ⟨hrow, hcol, -, hel, hdel⟩ := h
    rw [DatapathInRange, writePixel_dp_in s hin]
    refine ⟨hrow, hcol, ?_, hel, hdel⟩
    have := pixelIndex_lt hin
    simp only [BitVec.toNat_ofNat, Config.fbBytes] at this ⊢
    omega
  · rw [writePixel_out s (by simpa using hin)]
    exact h

theorem inv_writePixel {s : State} (x y : Coord) (on : Bool) (h : Inv s) (hst : s.seq.stage ≠ .uninitialized) :
    Inv (writePixel x y on s) := by
  obtain ⟨hseq, hfb, hpins, hdp, hto, hsync⟩ := h
  refine ⟨?_, fbAgrees_writePixel x y on hfb hst, ?_, datapathInRange_writePixel x y on hdp, ?_, ?_⟩
  · simpa [SeqAgrees] using hseq
  · simpa [PinsRest] using hpins
  · simpa [TimeoutsAgree] using hto
  · simpa [SyncAgrees] using hsync

theorem inv_startUpdate {s : State} (h : Inv s) (hb : s.seq.busy = false) (hst : s.seq.stage = .idle) :
    Inv (startUpdate s) := by
  have hpins := h.pinsRest_of_not_busy hb
  obtain ⟨-, ⟨hwf, -, hall⟩, -, hdp, ⟨-, hto⟩, hsync⟩ := h
  exact ⟨⟨nofun, rfl⟩, ⟨hwf, nofun, fun _ => hall (by simp [hst])⟩, hpins, hdp, ⟨nofun, hto⟩, hsync⟩

theorem inv_startSleep {s : State} (h : Inv s) (hb : s.seq.busy = false) (hst : s.seq.stage = .idle) :
    Inv (startSleep s) := by
  have hpins := h.pinsRest_of_not_busy hb
  obtain ⟨-, ⟨hwf, -, hall⟩, -, hdp, ⟨-, hto⟩, hsync⟩ := h
  exact ⟨⟨nofun, rfl⟩, ⟨hwf, nofun, fun _ => hall (by simp [hst])⟩, hpins, hdp, ⟨nofun, hto⟩, hsync⟩

/-- FILL's counter ends at an address of FB (R36). -/
theorem fillEnd_lt : (BitVec.ofNat 13 (Config.fbBytes - 1)).toNat < Config.fbBytes := by decide

theorem inv_startSetup {s : State} (hr hb : Bool) (n : BitVec 32) (h : Inv s) (hbusy : s.seq.busy = false)
    (hst : s.seq.stage = .uninitialized) : Inv (startSetup hr hb n s) := by
  obtain ⟨hcs, htx, hrst⟩ := h.pinsRest_of_not_busy hbusy
  obtain ⟨-, -, -, ⟨hrow, hcol, -, hel, hdel⟩, ⟨hto, -⟩, hsync⟩ := h
  have hpath : ∀ b, (afterSu0 b).busy = true ∧ (afterSu0 b).label ≠ .none ∧
      (afterSu0 b).stage = labelStage (afterSu0 b).label ∧ (afterSu0 b).stage ≠ .uninitialized ∧
      (afterSu0 b).label ≠ .rs4 ∧ (afterSu0 b).label ≠ .rs5 := by decide
  obtain ⟨hpb, hpl, hps, hpu, h4, h5⟩ := hpath hr
  refine ⟨?seq, fbAgrees_of_memFilled rfl hpu, ⟨hcs, htx, ?rst⟩, ⟨hrow, hcol, fillEnd_lt, hel, hdel⟩,
    ⟨fun hu => absurd hu hpu, fun _ => hto hst⟩, hsync⟩
  case seq =>
    rw [SeqAgrees, startSetup_seq, if_pos hpb]
    exact ⟨hpl, hps⟩
  case rst => simp [hrst, h4, h5]

/-! ### The actions of a sequence -/

/-- A position in a sequence is known by its label. -/
theorem SeqAgrees.seq_eq {s : State} (h : SeqAgrees s) (hb : s.seq.busy = true) :
    s.seq.label ≠ .none ∧ s.seq = ⟨labelStage s.seq.label, s.seq.label, true⟩ := by
  rw [SeqAgrees, if_pos hb] at h
  obtain ⟨hl, hst⟩ := h
  exact ⟨hl, by rw [← hst, ← hb]⟩

/-- The position after an action agrees again (R192). -/
theorem seqAgrees_advanceSeq {s : State} (h : SeqAgrees s) (hb : s.seq.busy = true) : SeqAgrees (advanceSeq s) := by
  obtain ⟨hl, hq⟩ := h.seq_eq hb
  rw [SeqAgrees, advanceSeq_seq, hq]
  revert hl
  generalize s.ctl.hasReset = hr, s.seq.label = l
  revert hr
  cases l <;> decide

/-- After any action of a sequence SETUP's FILL has been done. -/
theorem stage_seqAfter_ne_uninitialized (hr : Bool) {l : Label} (hl : l ≠ .none) :
    (seqAfter hr ⟨labelStage l, l, true⟩).stage ≠ .uninitialized := by
  revert hr hl
  cases l <;> decide

/-- Only RS3 and RS5 cross the borders of the pulse's low phase (R173). -/
theorem lowPhase_seqAfter (hr : Bool) {l : Label} (h : l ≠ .rs3 ∧ l ≠ .rs5) :
    ((seqAfter hr ⟨labelStage l, l, true⟩).label ≠ .rs4 ∧ (seqAfter hr ⟨labelStage l, l, true⟩).label ≠ .rs5) ↔
      (l ≠ .rs4 ∧ l ≠ .rs5) := by
  revert hr h
  cases l <;> decide

theorem labelStage_eq_uninitialized {l : Label} : labelStage l = .uninitialized ↔ l = .su0 := by cases l <;> decide

/-- SU0 fills FB, every other action leaves it (R24). -/
theorem runMicros_action_fb {l : Label} {act : SeqAction} (h : labelAction l = some act) (s : State) :
    (runMicros (actionMicros act s) s).fb = if l = .su0 then memFilled else s.fb := by
  split
  · next hl =>
    subst hl
    obtain rfl : SeqAction.instr .fill = act := by simpa [labelAction] using h
    rfl
  · next hl => exact runMicros_fb (fill_not_mem_actionMicros h hl s) s

namespace ActionLeaves

variable {s u : State} {l : Label}

/-- The device rests deselected with no byte offered (R33, R34, R144). -/
theorem bus_rests (h : ActionLeaves s l u)
    (hs : s.pins.csOut = (!s.params.csActiveLevel) ∧ s.pins.txValid = false) :
    u.pins.csOut = (!s.params.csActiveLevel) ∧ u.pins.txValid = false := by
  cases h with
  | bus | frame => exact ⟨rfl, rfl⟩
  | _ => exact hs

/-- The reset line is low in the low phase of the pulse alone (R31, R173). -/
theorem rstOut (h : ActionLeaves s l u) (hr : Bool) (hs : s.pins.rstOut = decide (l ≠ .rs4 ∧ l ≠ .rs5)) :
    u.pins.rstOut = decide ((seqAfter hr ⟨labelStage l, l, true⟩).label ≠ .rs4 ∧
      (seqAfter hr ⟨labelStage l, l, true⟩).label ≠ .rs5) := by
  have kept (hl : l ≠ .rs3 ∧ l ≠ .rs5) : s.pins.rstOut = decide ((seqAfter hr ⟨labelStage l, l, true⟩).label ≠ .rs4 ∧
      (seqAfter hr ⟨labelStage l, l, true⟩).label ≠ .rs5) := by
    simpa only [lowPhase_seqAfter hr hl] using hs
  cases h with
  | fill => exact kept (by decide)
  | pulse | low | high => rfl
  | delay _ hl | waitSkipped hl | waitOk _ hl | waitTimeout _ hl | bus _ _ _ hl | frame _ _ hl => exact kept hl

theorem datapathInRange (h : ActionLeaves s l u) (hs : DatapathInRange s) : DatapathInRange u := by
  obtain ⟨hrow, hcol, haddr, hel, hdel⟩ := hs
  cases h with
  | fill => exact ⟨hrow, hcol, fillEnd_lt, hel, hdel⟩
  | pulse | delay => exact ⟨hrow, hcol, haddr, hel, rfl⟩
  | low | high | waitSkipped | bus => exact ⟨hrow, hcol, haddr, hel, hdel⟩
  | waitOk k hl hk =>
    have hle : (BitVec.ofNat 15 (100 * k)).toNat ≤ 100 * k := by
      rw [BitVec.toNat_ofNat]
      exact Nat.mod_le _ _
    exact ⟨hrow, hcol, haddr, hle.trans (by omega), rfl⟩
  | waitTimeout => exact ⟨hrow, hcol, haddr, le_rfl, rfl⟩
  | frame => exact ⟨by simp, by simp, by simp [Config.fbBytes], hel, hdel⟩

/-- Without a busy line no timeout is recorded (R212). -/
theorem timeoutSeen (h : ActionLeaves s l u) (hb : s.ctl.hasBusy = false) : u.ctl.timeoutSeen = s.ctl.timeoutSeen := by
  cases h with
  | waitTimeout _ _ hb' => rw [hb] at hb'; cases hb'
  | _ => rfl

end ActionLeaves

/-- An action of a sequence, whole, and the move to the next position. -/
theorem inv_action {s : State} {act : SeqAction} (h : Inv s) (hb : s.seq.busy = true)
    (ha : labelAction s.seq.label = some act) : Inv (advanceSeq (runMicros (actionMicros act s) s)) := by
  obtain ⟨hseq, ⟨hwf, -, hall⟩, ⟨hcs, htx, hrst⟩, hdp, ⟨-, hto⟩, hsync⟩ := h
  have hleaves := actionLeaves_of_labelAction ha s
  have hfb := runMicros_action_fb ha s
  have hhb := runMicros_hasBusy (actionMicros act s) s
  have hpar := runMicros_params (actionMicros act s) s
  have hsq := runMicros_seq (actionMicros act s) s
  have hsync' := syncAgrees_runMicros (actionMicros act s) hsync
  generalize runMicros (actionMicros act s) s = u at *
  obtain ⟨hl, hq⟩ := hseq.seq_eq hb
  have hstage : (advanceSeq u).seq.stage ≠ .uninitialized := by
    rw [advanceSeq_seq, hsq, hq]
    exact stage_seqAfter_ne_uninitialized _ hl
  refine ⟨seqAgrees_advanceSeq (by rwa [SeqAgrees, hsq]) (hsq ▸ hb), ?fb, ?pins, hleaves.datapathInRange hdp,
    ⟨fun hu => absurd hu hstage, fun hb' => ?timeouts⟩, hsync'⟩
  case fb =>
    split at hfb
    · exact fbAgrees_of_memFilled hfb hstage
    · next hsu0 =>
      have hst : s.seq.stage ≠ .uninitialized := by
        rw [hq]
        exact fun hu => hsu0 (labelStage_eq_uninitialized.mp hu)
      exact ⟨hfb ▸ hwf, fun hu => absurd hu hstage, fun _ => hfb ▸ hall hst⟩
  case pins =>
    obtain ⟨hcs', htx'⟩ := hleaves.bus_rests ⟨hcs, htx⟩
    refine ⟨hpar ▸ hcs', htx', ?_⟩
    rw [advanceSeq_seq, advanceSeq_pins, hsq, hq]
    exact hleaves.rstOut _ hrst
  case timeouts =>
    have hb'' : s.ctl.hasBusy = false := hhb ▸ hb'
    exact (hleaves.timeoutSeen hb'').trans (hto hb'')

/-- Every step keeps the invariant. -/
theorem StepsTo.inv {s t : State} (h : StepsTo s t) (hs : Inv s) : Inv t := by
  have hc := (inv_clearPulses s).mpr hs
  cases h with
  | reset u hr hp =>
    obtain ⟨-, -, -, -, -, hpos, -⟩ := hs
    exact (inv_endStep _ _).mpr (inv_blockReset (hp ▸ hpos))
  | action act hr hb ha => exact (inv_endStep _ _).mpr (inv_action hc hb ha)
  | pixel hb hst =>
    refine (inv_endStep _ _).mpr ((inv_raiseAck _ _).mpr (inv_writePixel _ _ _ hc ?_))
    rcases hst with hst | hst <;> simp [hst]
  | update hb hst => exact (inv_endStep _ _).mpr ((inv_raiseAck _ _).mpr (inv_startUpdate hc hb hst))
  | sleep hb hst => exact (inv_endStep _ _).mpr ((inv_raiseAck _ _).mpr (inv_startSleep hc hb hst))
  | setup hb hst => exact (inv_endStep _ _).mpr ((inv_raiseAck _ _).mpr (inv_startSetup _ _ _ hc hb hst))
  | port hb => exact (inv_endStep _ _).mpr hc

/-- Settles O38. -/
theorem invariantAtReset : Obligations.InvariantAtReset := inv_resetWith (by decide)

/-- Settles O39: a case a kind of step, each built from what its operation does to the parts of the state. -/
theorem invariantKept : Obligations.InvariantKept := fun _ _ hs h => (stepsTo_of_step h).inv hs

end Sys2Proof.Machine
end

section
/-! PROOFS, family 10_state: the two counts influence nothing but themselves (R26, R27, R299). Every part of a step commutes
with `withoutCounts`, but for the operand of SETUP, which loads one of them. -/

namespace Sys2Proof.Machine

/-- The instruction without the operand that loads FULL_UPDATE_EVERY. -/
def instrWithoutCount : Instr → Instr
  | .setup hr hb _ => .setup hr hb 0#32
  | i => i

@[simp] theorem withoutCounts_withoutCounts (s : State) : withoutCounts (withoutCounts s) = withoutCounts s := by
  simp [withoutCounts, Function.comp_def]

/-! ### The parts of a step that look at no count -/

theorem withoutCounts_clearPulses (s : State) : withoutCounts (clearPulses s) = clearPulses (withoutCounts s) := rfl
theorem withoutCounts_advanceSeq (s : State) : withoutCounts (advanceSeq s) = advanceSeq (withoutCounts s) := rfl
theorem withoutCounts_blockReset (s : State) : withoutCounts (blockReset s) = blockReset (withoutCounts s) := rfl

theorem withoutCounts_raiseAck (op : HostOp) (s : State) :
    withoutCounts (raiseAck op s) = raiseAck op (withoutCounts s) := by
  cases op <;> rfl

theorem withoutCounts_runMicros (ms : List Micro) (s : State) :
    withoutCounts (runMicros ms s) = runMicros ms (withoutCounts s) := by
  induction ms generalizing s with
  | nil => rfl
  | cons m ms ih =>
    have one : withoutCounts (runMicro m s) = runMicro m (withoutCounts s) := by cases m <;> rfl
    rw [runMicros_cons, ih, one, runMicros_cons]

theorem withoutCounts_writePixel (x y : Coord) (on : Bool) (s : State) :
    withoutCounts (writePixel x y on s) = writePixel x y on (withoutCounts s) := by
  unfold writePixel
  split <;> rfl

theorem withoutCounts_readPort (a : FbAddr) (s : State) :
    withoutCounts (readPort a s) = readPort a (withoutCounts s) := by
  have hv : portValid (withoutCounts s) a = portValid s a := rfl
  unfold readPort
  rw [hv]
  split <;> rfl

theorem withoutCounts_clockEdges (n : Nat) (s : State) :
    withoutCounts (clockEdges n s) = clockEdges n (withoutCounts s) := by
  induction n generalizing s with
  | zero => rfl
  | succ n ih => exact ih (clockEdge s)

theorem withoutCounts_nextInputs (s : State) : withoutCounts (nextInputs s) = nextInputs (withoutCounts s) := by
  cases hs : s.env.script with
  | nil => rw [nextInputs_empty s hs, nextInputs_empty _ (by simp [withoutCounts, hs])]
  | cons i rest =>
    have hs' := congrArg (List.map fun i : Inputs => { i with request.cfgFullUpdateEvery := 0#32 }) hs
    rw [nextInputs_cons s hs, nextInputs_cons (withoutCounts s) hs']
    rfl

theorem withoutCounts_endStep (n : Nat) (s : State) : withoutCounts (endStep n s) = endStep n (withoutCounts s) := by
  unfold endStep
  rw [withoutCounts_nextInputs, withoutCounts_clockEdges, withoutCounts_readPort]
  rfl

theorem actionMicros_withoutCounts (act : SeqAction) (s : State) :
    actionMicros act (withoutCounts s) = actionMicros act s := by
  cases act with
  | instr i => cases i <;> rfl
  | drive l => rfl

/-! ### Requests -/

theorem accepts_withoutCounts (s : State) : accepts (withoutCounts s) = accepts s := rfl

theorem arbitrate_withoutCounts (s : State) : arbitrate (withoutCounts s) = (arbitrate s).map instrWithoutCount := by
  unfold arbitrate selectRequest
  rw [accepts_withoutCounts]
  simp only [apply_ite (Option.map instrWithoutCount)]
  rfl

theorem edgesOf_instrWithoutCount (i : Instr) (p : Params) : edgesOf (instrWithoutCount i) p = edgesOf i p := by
  cases i <;> rfl

/-! ### The step -/

theorem mapNext_mapNext (f g : State → State) (o : Host.Outcome State Fault Refusal) :
    mapNext f (mapNext g o) = mapNext (fun s => f (g s)) o := by
  cases o <;> rfl

/-- Commuting with `withoutCounts` passes from an instruction's outcome to what follows it in the step. -/
theorem mapNext_withoutCounts_congr {f : State → State} (hf : ∀ s, withoutCounts (f s) = f (withoutCounts s))
    {o o' : Host.Outcome State Fault Refusal} (h : mapNext withoutCounts o = mapNext withoutCounts o') :
    mapNext withoutCounts (mapNext f o) = mapNext withoutCounts (mapNext f o') := by
  have comm (o : Host.Outcome State Fault Refusal) :
      mapNext withoutCounts (mapNext f o) = mapNext f (mapNext withoutCounts o) := by
    simp only [mapNext_mapNext, hf]
  rw [comm, comm, h]

/-- An operation done at its acceptance, whose effect `f` looks at no count. -/
theorem accepted_withoutCounts (op : HostOp) {f g : State → State} (s : State)
    (hfg : withoutCounts (f s) = withoutCounts (g (withoutCounts s))) :
    mapNext withoutCounts (if accepts s op then .next (raiseAck op (f s)) else .next s) =
      mapNext withoutCounts (if accepts (withoutCounts s) op then .next (raiseAck op (g (withoutCounts s)))
        else .next (withoutCounts s)) := by
  rw [accepts_withoutCounts]
  split
  · simp only [mapNext_next, withoutCounts_raiseAck, hfg]
  · simp only [mapNext_next, withoutCounts_withoutCounts]

theorem exec_request_withoutCounts {i : Instr} {s u : State} (h : arbitrate u = some i) :
    mapNext withoutCounts (exec i s) = mapNext withoutCounts (exec (instrWithoutCount i) (withoutCounts s)) := by
  rcases selectRequest_cases h with ⟨rfl, -⟩ | ⟨rfl, -⟩ | ⟨rfl, -⟩ | ⟨rfl, -⟩
  · exact accepted_withoutCounts .setPixel s (by simp only [withoutCounts_writePixel, withoutCounts_withoutCounts])
  · exact accepted_withoutCounts .update (f := startUpdate) (g := startUpdate) s
      (by simp [withoutCounts, startUpdate, Function.comp_def])
  · exact accepted_withoutCounts .sleep (f := startSleep) (g := startSleep) s
      (by simp [withoutCounts, startSleep, Function.comp_def])
  · exact accepted_withoutCounts .setup (f := startSetup _ _ _) (g := startSetup _ _ _) s
      (by simp [withoutCounts, startSetup, fillFb, Function.comp_def])

theorem sequencerStep_withoutCounts (s : State) :
    mapNext withoutCounts (sequencerStep s) = mapNext withoutCounts (sequencerStep (withoutCounts s)) := by
  have hl : (withoutCounts s).seq.label = s.seq.label := rfl
  have hp : (withoutCounts s).params = s.params := rfl
  unfold sequencerStep
  rw [hl, hp]
  split
  · rfl
  · next act ha =>
    refine mapNext_withoutCounts_congr (fun u => by rw [withoutCounts_endStep, withoutCounts_advanceSeq]) ?_
    simp only [runAction_eq_micros ha, mapNext_next, withoutCounts_runMicros, actionMicros_withoutCounts,
      withoutCounts_withoutCounts]

theorem hostStep_withoutCounts (s : State) :
    mapNext withoutCounts (hostStep s) = mapNext withoutCounts (hostStep (withoutCounts s)) := by
  unfold hostStep
  rw [arbitrate_withoutCounts]
  cases hi : arbitrate s with
  | none => simp only [Option.map_none, mapNext_next, withoutCounts_endStep, withoutCounts_withoutCounts]
  | some i =>
    simp only [Option.map_some, edgesOf_instrWithoutCount]
    exact mapNext_withoutCounts_congr (withoutCounts_endStep _) (exec_request_withoutCounts hi)

theorem runStep_withoutCounts (s : State) :
    mapNext withoutCounts (runStep s) = mapNext withoutCounts (runStep (withoutCounts s)) := by
  have hb : (withoutCounts s).seq.busy = s.seq.busy := rfl
  unfold runStep
  rw [hb, ← withoutCounts_clearPulses]
  split
  · exact sequencerStep_withoutCounts _
  · exact hostStep_withoutCounts _

theorem resetStep_withoutCounts (s : State) :
    mapNext withoutCounts (resetStep s) = mapNext withoutCounts (resetStep (withoutCounts s)) := by
  simp only [resetStep, mapNext_next, withoutCounts_endStep, withoutCounts_blockReset, withoutCounts_withoutCounts]

theorem cutStep_withoutCounts (k : Nat) (s : State) :
    mapNext withoutCounts (cutStep k s) = mapNext withoutCounts (cutStep k (withoutCounts s)) := by
  have hq : (withoutCounts s).seq = s.seq := rfl
  unfold cutStep
  rw [hq, ← withoutCounts_clearPulses]
  split
  · split
    · exact resetStep_withoutCounts s
    · simp only [mapNext_next, withoutCounts_endStep, withoutCounts_blockReset, withoutCounts_runMicros,
        actionMicros_withoutCounts, withoutCounts_withoutCounts]
  · exact runStep_withoutCounts s

theorem step_withoutCounts (s : State) :
    mapNext withoutCounts (step s) = mapNext withoutCounts (step (withoutCounts s)) := by
  have hr : (withoutCounts s).env.inputs.rst = s.env.inputs.rst := rfl
  unfold step
  rw [hr]
  split
  · exact resetStep_withoutCounts s
  · exact runStep_withoutCounts s
  · exact cutStep_withoutCounts _ s

/-- Settles O49: the step commutes with forgetting the counts. -/
theorem countsAreNeverConsulted : Obligations.CountsAreNeverConsulted := fun s s' h => by
  rw [step_withoutCounts s, step_withoutCounts s', h]

end Sys2Proof.Machine
end

section
/-! PROOFS, family 10_state: what a step does to TIMEOUT_SEEN, FB, the configuration, the position and `ready`, each by the
kinds of a step; the reset table and the ports. -/

namespace Sys2Proof.Machine

/-- Settles O35: the table is the definition of the state after reset. -/
theorem resetTable : Obligations.ResetTable :=
  ⟨rfl, rfl, rfl, rfl, rfl, rfl, rfl, rfl, rfl, rfl, rfl, rfl, rfl, rfl, rfl, rfl, rfl⟩

/-- Settles O57. -/
theorem portsShowState : Obligations.PortsShowState := by
  refine ⟨⟨rfl, rfl, rfl, rfl, rfl, rfl, rfl, fun st => ?_⟩, fun s => ?_⟩
  · cases st <;> decide
  · exact ⟨rfl, rfl, rfl, rfl, rfl, rfl, rfl, rfl, rfl, rfl, rfl, rfl, rfl, rfl, rfl, rfl⟩

/-- Settles O43: no request touches TIMEOUT_SEEN, and the actions of a sequence only set bits. -/
theorem timeoutBitsSticky : Obligations.TimeoutBitsSticky := by
  intro s t hr h w _ hw
  cases stepsTo_of_step h with
  | reset _ hr' => exact absurd hr hr'
  | action => simpa using runMicros_timeoutSeen _ (clearPulses s) w hw
  | pixel | update | sleep | setup | port => simpa using hw

/-- Settles O44: SU0 is the one action that writes FB, SETUP and SET_PIXEL the requests that do. -/
theorem onlyFillAndSetPixelWriteFb : Obligations.OnlyFillAndSetPixelWriteFb := by
  intro s t a hr h hne
  cases stepsTo_of_step h with
  | reset _ hr' => exact absurd hr hr'
  | action act _ _ ha =>
    refine .inl (not_not.mp fun hl => hne ?_)
    rw [endStep_fb, advanceSeq_fb, runMicros_action_fb ha, if_neg hl, clearPulses_fb]
  | setup => exact .inr (.inl (by simp))
  | update | sleep | port => exact absurd (by simp) hne
  | pixel =>
    refine .inr (.inr ⟨by simp, ?_⟩)
    rw [endStep_fb, raiseAck_fb] at hne
    by_cases hin : inBounds s.env.inputs.request.pxX s.env.inputs.request.pxY = true
    · refine ⟨hin, not_not.mp fun ha => hne ?_⟩
      rw [writePixel_fb_in _ hin, memRead_memWrite_other _ _ ha, clearPulses_fb]
    · rw [writePixel_out _ (by simpa using hin)] at hne
      exact absurd rfl hne

/-! ### The position -/

/-- An action stands at every label but NONE. -/
theorem exists_labelAction {l : Label} (hl : l ≠ .none) : ∃ act, labelAction l = some act := by
  cases l with
  | none => exact absurd rfl hl
  | _ => exact ⟨_, rfl⟩

/-- The step of a sequence. -/
theorem step_of_labelAction {s : State} {act : SeqAction} (hr : s.env.inputs.rst = .low) (hb : s.seq.busy = true)
    (ha : labelAction s.seq.label = some act) :
    step s = .next
      (endStep s.params.syncStages (advanceSeq (runMicros (actionMicros act (clearPulses s)) (clearPulses s)))) := by
  simp [step, hr, runStep, hb, sequencerStep, ha, runAction_eq_micros ha]

/-- A sequence goes on or ends in one of two ways. -/
theorem seqAfter_ends (hr : Bool) {q : Seq} (hb : q.busy = true) :
    (seqAfter hr q).busy = true ∨ seqAfter hr q = seqIdle ∨ seqAfter hr q = seqAsleep := by
  obtain ⟨st, l, b⟩ := q
  obtain rfl : b = true := hb
  cases l
  case su0 => cases hr <;> exact .inl rfl
  case in14 | rf2 => exact .inr (.inl rfl)
  case sl1 | sl2 => exact .inr (.inr rfl)
  all_goals exact .inl rfl

/-- Settles O46: the action at STEP leaves the position and CFG_HAS_RESET, from which the next position is read. -/
theorem sequenceIsNeverDiverted : Obligations.SequenceIsNeverDiverted := by
  intro s hb hl hr
  obtain ⟨act, ha⟩ := exists_labelAction hl
  have hseq : (advanceSeq (runMicros (actionMicros act (clearPulses s)) (clearPulses s))).seq =
      seqAfter s.ctl.hasReset s.seq := by simp
  refine ⟨_, step_of_labelAction hr hb ha, ?_, ?_⟩ <;> rw [endStep_seq, hseq]
  exact seqAfter_ends _ hb

/-- Settles O48: SETUP alone loads the configuration. -/
theorem configurationLatchedAtSetup : Obligations.ConfigurationLatchedAtSetup := by
  intro s t h
  cases stepsTo_of_step h with
  | reset u hr' hp => exact ⟨by simp [hp], fun hr => absurd hr hr'⟩
  | setup => exact ⟨by simp, fun _ => .inl (by simp)⟩
  | action | pixel | update | sleep | port => exact ⟨by simp, fun _ => .inr (by simp)⟩

/-! ### `ready` -/

/-- A sequence ends with the action at one of four labels. -/
theorem seqAfter_busy_eq_false (hr : Bool) {q : Seq} (hb : q.busy = true) :
    (seqAfter hr q).busy = false ↔ q.label = .in14 ∨ q.label = .rf2 ∨ q.label = .sl1 ∨ q.label = .sl2 := by
  obtain ⟨st, l, b⟩ := q
  obtain rfl : b = true := hb
  cases l <;> cases hr <;> simp [seqAfter, afterSu0, seqIdle, seqAsleep]

theorem afterSu0_busy (hr : Bool) : (afterSu0 hr).busy = true := by cases hr <;> rfl

/-- Settles O58: a step without a sequence starts one exactly where it acknowledges SETUP, UPDATE or SLEEP, and an action
ends one exactly at the four last labels. -/
theorem readyFollowsSequence : Obligations.ReadyFollowsSequence := by
  intro s t _ hr h
  cases stepsTo_of_step h with
  | reset _ hr' => exact absurd hr hr'
  | action act _ hb ha => simp [outputs, hb, seqAfter_busy_eq_false _ hb]
  | setup hb => simp [outputs, hb, afterSu0_busy]
  | update hb | sleep hb | pixel hb | port hb => simp [outputs, hb]

end Sys2Proof.Machine
end

section
/-! PROOFS, family 10_state: the busy-line synchronizer at the end of a step and after any number of clock edges. -/

namespace Sys2Proof.Machine

/-- A step of one clock edge shifts the chain by one stage. -/
theorem endStep_one_busySync {s u : State} (hsync : u.busySync = s.busySync) (hline : u.env.lineIn = s.env.lineIn)
    (hix : u.draws.edgeIx = s.draws.edgeIx) :
    (endStep 1 u).busySync = (edgeLevel s 0 :: s.busySync).dropLast := by
  have h := endStep_busySync 1 u
  rw [hsync] at h
  simpa [List.dropLast_eq_take, edgeLevel_congr hline hix] using h

/-- A step of SYNC_STAGES clock edges fills the chain with the line's levels at them. -/
theorem endStep_full_busySync {s u : State} (hlen : u.busySync.length = s.params.syncStages)
    (hline : u.env.lineIn = s.env.lineIn) (hix : u.draws.edgeIx = s.draws.edgeIx) :
    (endStep s.params.syncStages u).busySync = ((List.range s.params.syncStages).map (edgeLevel s)).reverse := by
  rw [endStep_busySync, hlen, List.take_left' (by simp), funext (edgeLevel_congr hline hix)]

/-- Settles O55: the edges of each kind of step. -/
theorem synchronizerIsClocked : Obligations.SynchronizerIsClocked := by
  intro s t hs hr h
  cases stepsTo_of_step h with
  | reset _ hr' => exact absurd hr hr'
  | action act _ hb ha =>
    obtain ⟨hpos, hlen⟩ := syncAgrees_runMicros (actionMicros act (clearPulses s)) (s := clearPulses s) hs
    refine ⟨fun hb' => absurd hb (by simp [hb']), fun _ => endStep_full_busySync ?_ ?_ ?_⟩
    · simpa using hlen
    · simp
    · simp
  | setup hb =>
    obtain ⟨-, hlen⟩ := hs
    refine ⟨fun _ hack => absurd hack (by simp), fun _ => endStep_full_busySync ?_ ?_ ?_⟩
    · simpa using hlen
    · simp
    · simp
  | pixel hb | update hb | sleep hb | port hb =>
    exact ⟨fun _ _ => endStep_one_busySync (by simp) (by simp) (by simp), fun h => absurd h (by simp [hb])⟩

/-- Settles O56: of the levels sampled at `n` edges the chain keeps the last SYNC_STAGES, the oldest of them in BUSY_Q. -/
theorem busyQFollowsLine : Obligations.BusyQFollowsLine := by
  refine ⟨fun s n ⟨hpos, hlen⟩ hn => ?_, fun s b hs => ⟨busyQ_takeSample b s, syncAgrees_runMicros [.sample b] hs⟩⟩
  have hpre : ((List.range n).map (edgeLevel s)).reverse.length = n := by simp
  have hix : n - 1 - (s.params.syncStages - 1) = n - s.params.syncStages := by omega
  rw [busyQ, clockEdges_busySync, hlen, List.take_append_of_le_length (hpre.symm ▸ hn), List.getLast?_eq_getElem?,
    List.length_take, hpre, Nat.min_eq_left hn, List.getElem?_take_of_lt (by omega),
    List.getElem?_reverse (by simpa using by omega), List.length_map, List.length_range, hix, List.getElem?_map,
    List.getElem?_range (by omega)]
  rfl

end Sys2Proof.Machine
end

section
/-! PROOFS, family 20_memory: the order of the bytes of a 16-bit field (R67) and of the frame payload (R66). -/

namespace Sys2Proof.Machine

/-! ### 16-bit fields -/

/-- A field put together from two bytes goes out as the low one, then the high one (R67). -/
theorem fieldBytes_append (hi lo : Byte) : fieldBytes (hi ++ lo) = [lo, hi] := by
  have low : (hi ++ lo).extractLsb' 0 8 = lo := BitVec.extractLsb'_append_eq_right
  have high : (hi ++ lo).extractLsb' 8 8 = hi := BitVec.extractLsb'_append_eq_left
  rw [fieldBytes, low, high]

/-- Settles O5: the fields of the examples are put together from the bytes they go out as. -/
theorem fieldLowByteFirst : Obligations.FieldLowByteFirst :=
  ⟨fun _ => rfl, fun lo hi => fieldBytes_append hi lo, fieldBytes_append 0x00#8 0x00#8,
    fieldBytes_append 0x01#8 0x28#8, fieldBytes_append 0x01#8 0x27#8⟩

/-! ### The frame payload -/

theorem framePayload_length (s : State) : (framePayload s).length = 5624 := by
  rw [framePayload, List.length_map, List.length_range']
  rfl

/-- The byte at a payload position (R66). -/
theorem framePayload_getElem? (s : State) {p : Nat} (hp : p < 5624) :
    (framePayload s)[p]? = some (fbByte s (payloadAddr p)) := by
  have hpos : (List.range' 0 Config.fbBytes)[p]? = some p := by
    have hlt : p < Config.fbBytes := hp
    rw [List.getElem?_range' hlt, Nat.zero_add, Nat.one_mul]
  rw [framePayload, List.getElem?_map, hpos, Option.map_some]

theorem payloadAddr_lt (p : Nat) : payloadAddr p < 5624 := by
  unfold payloadAddr
  omega

/-- Reversing the rows twice gives them back: the address sent at `a` is the position `a` is sent at (R66). -/
theorem payloadAddr_payloadAddr {a : Nat} (ha : a < 5624) : payloadAddr (payloadAddr a) = a := by
  unfold payloadAddr
  omega

/-- SEND_BLOCK of the frame (R142, R184). -/
theorem exec_sendBlock_rowFetch (s : State) :
    exec (.sendBlock .rowFetch) s = .next
      { afterBus .data (fbByte s 18) (blockFrame (framePayload s)) s with
        dp := { s.dp with rowCnt := 295#9, colCnt := 18#5, fbAddr := 18#13 } } := by
  rw [exec, execSendBlock, runMicros_block_rowFetch]

/-- Settles O23: the frame block sends the frame payload, whose position `p` holds the byte at `payloadAddr p`. -/
theorem frameBlockReversesRows : Obligations.FrameBlockReversesRows := by
  refine ⟨rfl, fun s => ⟨_, exec_sendBlock_rowFetch s, rfl, framePayload_length s, ?positions, ?addresses, ?first, ?last,
    ⟨rfl, rfl, rfl, rfl⟩, rfl⟩⟩
  case positions =>
    intro j hj i hi
    rw [framePayload_getElem? s (by omega), payloadAddr_pair hi]
    rfl
  case addresses =>
    intro a ha
    have h := framePayload_getElem? s (payloadAddr_lt a)
    rwa [payloadAddr_payloadAddr ha] at h
  case first => exact framePayload_getElem? s (p := 0) (by decide)
  case last => exact framePayload_getElem? s (p := 5623) (by decide)

end Sys2Proof.Machine
end

section
/-! PROOFS, family 30_encoding: the rows of the command set, and that decoding gives back what was encoded. -/

namespace Sys2Proof

/-! ### A key that occurs once -/

/-- Where no two elements of a list share a key, a search by an element's key finds that element. -/
theorem find?_key_of_nodup {α β : Type} [DecidableEq β] {key : α → β} {l : List α} (hl : (l.map key).Nodup) {a : α}
    (ha : a ∈ l) : l.find? (fun b => key b == key a) = some a := by
  cases hf : l.find? (fun b => key b == key a) with
  | none => exact absurd (beq_self_eq_true (key a)) (by simpa using List.find?_eq_none.mp hf a ha)
  | some b =>
    have hkey : key b = key a := by simpa using List.find?_some hf
    rw [List.inj_on_of_nodup_map hl (List.mem_of_find?_eq_some hf) ha hkey]

/-! ### The rows of the command set (R100) -/

theorem map_opcode_commandRows (p : Params) : (commandRows p).map CmdRow.opcode = p.opcodes := rfl

/-- Each row's opcode is the code of its command. -/
theorem encode_row {p : Params} {r : CmdRow} (hr : r ∈ commandRows p) : encode p r.instr = some (.opcode r.opcode) := by
  revert r
  simp [commandRows, encode]

/-- An instruction with an opcode byte has a row. -/
theorem exists_row_of_encode {p : Params} {i : Instr} {op : Byte} (h : encode p i = some (.opcode op)) :
    ∃ r ∈ commandRows p, r.instr = i ∧ r.opcode = op := by
  cases i <;> simp [encode] at h <;> simp [commandRows, h]

theorem mem_of_rowOfOpcode {p : Params} {op : Byte} {r : CmdRow} (h : rowOfOpcode p op = some r) :
    r ∈ commandRows p ∧ r.opcode = op :=
  ⟨List.mem_of_find?_eq_some h, by simpa using List.find?_some h⟩

theorem mem_of_rowOfInstr {p : Params} {i : Instr} {r : CmdRow} (h : rowOfInstr p i = some r) :
    r ∈ commandRows p ∧ r.instr = i :=
  ⟨List.mem_of_find?_eq_some h, by simpa using List.find?_some h⟩

/-- With distinct opcodes (R9) a row is found by its opcode. -/
theorem rowOfOpcode_of_mem {p : Params} (hp : p.distinct) {r : CmdRow} (hr : r ∈ commandRows p) :
    rowOfOpcode p r.opcode = some r :=
  find?_key_of_nodup (map_opcode_commandRows p ▸ hp) hr

theorem decode_opcode {p : Params} {op : Byte} {r : CmdRow} (h : rowOfOpcode p op = some r) :
    decode p (.opcode op) = .ok r.instr := by
  rw [decode, h]

/-- Only the opcode of a row decodes as a panel command. -/
theorem exists_row_of_decode {p : Params} {op : Byte} {i : Instr} (h : decode p (.opcode op) = .ok i) :
    ∃ r, rowOfOpcode p op = some r ∧ r.instr = i := by
  cases hrow : rowOfOpcode p op with
  | none => simp [decode, hrow] at h
  | some r => exact ⟨r, rfl, by simpa [decode, hrow] using h⟩

/-! ### Host requests (R91) and the read port (R93) -/

theorem decode_request {p : Params} {r : Request} {i : Instr} :
    decode p (.request r) = .ok i ↔ selectRequest (fun _ => true) r = some i := by
  cases h : selectRequest (fun _ => true) r <;> simp [decode, h]

/-- The request ports of an operation alone select it, with its operands. -/
theorem selectRequest_of_encode {p : Params} {i : Instr} {r : Request} (h : encode p i = some (.request r)) :
    selectRequest (fun _ => true) r = some i := by
  cases i with
  | setPixel | update | sleep | setup =>
    obtain rfl := Code.request.inj (Option.some.inj h)
    rfl
  | _ => simp [encode] at h

theorem eq_fbRead_of_encode {p : Params} {i : Instr} {a : FbAddr} (h : encode p i = some (.port a)) : i = .fbRead a := by
  cases i <;> simp [encode] at h
  rw [h]

/-! ### The obligations on codes -/

/-- Settles O2, by the layer of the code: a request selects its operation, an address is the read port's, an opcode finds
its row. -/
theorem encodedInstructionDecodes : Obligations.EncodedInstructionDecodes := by
  intro p i c hp hc
  cases c with
  | request r => exact decode_request.mpr (selectRequest_of_encode hc)
  | port a => rw [eq_fbRead_of_encode hc, decode]
  | opcode op =>
    obtain ⟨r, hr, rfl, rfl⟩ := exists_row_of_encode hc
    exact decode_opcode (rowOfOpcode_of_mem hp hr)

/-- Settles O3: a byte that decodes has a row, whose opcode it is. -/
theorem opcodeByteIsOneOfNine : Obligations.OpcodeByteIsOneOfNine := by
  intro p op i h
  obtain ⟨r, hrow, rfl⟩ := exists_row_of_decode h
  obtain ⟨hr, rfl⟩ := mem_of_rowOfOpcode hrow
  exact ⟨map_opcode_commandRows p ▸ List.mem_map_of_mem hr, encode_row hr⟩

/-- Settles O1: the words are evaluated. -/
theorem specWordsDecode : Obligations.SpecWordsDecode :=
  ⟨rfl, rfl, rfl, rfl, rfl, rfl, rfl, rfl, rfl, rfl, rfl, rfl⟩

/-! ### A panel command on the bus -/

/-- The data bytes after a command's opcode: the constants of its row, or the frame payload (R100, R107). -/
def CmdRow.sent (r : CmdRow) (payload : List Byte) : List Byte := if r.payload then payload else r.data

theorem commandBytes_of_row {p : Params} {i : Instr} {r : CmdRow} (payload : List Byte) (h : rowOfInstr p i = some r) :
    commandBytes p payload i = (BusMode.cmd, r.opcode) :: (r.sent payload).map fun b => (BusMode.data, b) := by
  rw [commandBytes, h, CmdRow.sent]

/-- The number of data bytes follows from the row alone (R100, R107). -/
theorem CmdRow.length_sent (r : CmdRow) {payload : List Byte} (h : payload.length = Config.fbBytes) :
    (r.sent payload).length = if r.payload then Config.fbBytes else r.data.length := by
  rw [CmdRow.sent, apply_ite List.length, h]

/-- A reader that finds the row takes the data bytes sent after its opcode and no more. -/
theorem readCommand_of_row {p : Params} {r : CmdRow} {payload : List Byte} (rest : List (BusMode × Byte))
    (hrow : rowOfOpcode p r.opcode = some r) (hlen : payload.length = Config.fbBytes) :
    readCommand p ((BusMode.cmd, r.opcode) :: ((r.sent payload).map fun b => (BusMode.data, b)) ++ rest) =
      .ok (r.instr, rest) := by
  have hn : ((r.sent payload).map fun b => (BusMode.data, b)).length =
      if r.payload then Config.fbBytes else r.data.length := by rw [List.length_map, r.length_sent hlen]
  have hdata : (r.payload || r.sent payload == r.data) = true := by
    cases h : r.payload <;> simp [CmdRow.sent, h]
  have hbytes : ((r.sent payload).map fun b => (BusMode.data, b)).map (·.2) = r.sent payload := by simp [Function.comp_def]
  simp only [List.cons_append, readCommand, hrow, ← hn, List.take_left, List.drop_left]
  rw [if_neg (by simp), if_pos (by rw [hbytes, hdata]; simp)]

/-- Settles O4: the opcode sent finds the command's own row (R9), and the row says how many bytes follow. -/
theorem commandBytesReadBack : Obligations.CommandBytesReadBack := by
  intro p i payload rest hp hi hlen
  obtain ⟨r, hri⟩ := Option.isSome_iff_exists.mp hi
  obtain ⟨hr, rfl⟩ := mem_of_rowOfInstr hri
  rw [commandBytes_of_row payload hri]
  exact readCommand_of_row rest (rowOfOpcode_of_mem hp hr) hlen

end Sys2Proof
end

section
/-! PROOFS, family 30_encoding: a code placed where the next step fetches it, and the step in which only the read port
acts. -/

namespace Sys2Proof.Machine

/-! ### Placed codes -/

theorem decodeTableWord_eq_some {nbits w : Nat} {i : Instr} (h : decodeTableWord nbits w = some i) :
    ∃ c, codeOfTable nbits w = some c ∧ decode Params.suggested c = .ok i := by
  unfold decodeTableWord at h
  split at h
  · cases h
  next c hc =>
    split at h
    next j hj => exact ⟨c, hc, hj.trans (congrArg _ (Option.some.inj h))⟩
    next => cases h

theorem withFetchWord_of_code {nbits w : Nat} {c : Code} (h : codeOfTable nbits w = some c) (s : State) :
    s.withFetchWord nbits w = placeCode c s := by
  rw [State.withFetchWord, h]

theorem fetch_of_arbitrate {s : State} {i : Instr} (hb : s.seq.busy = false) (h : arbitrate s = some i) :
    fetch s = some i := by
  simp [fetch, hb, h]

theorem fetch_port {s : State} (hb : s.seq.busy = false) (h : arbitrate s = none) :
    fetch s = some (.fbRead s.env.inputs.fbRaddr) := by
  simp [fetch, hb, h]

theorem fetch_of_label {s : State} {i : Instr} (hb : s.seq.busy = true) (h : labelAction s.seq.label = some (.instr i)) :
    fetch s = some i := by
  simp [fetch, hb, h]

/-- In the stage a request is placed at, the block accepts the operation the request decodes to (R233). -/
theorem selectRequest_requestStage {s : State} {r : Request} {i : Instr} (hb : s.seq.busy = false)
    (hr : s.env.inputs.rst = .low) (hst : s.seq.stage = requestStage r)
    (hi : selectRequest (fun _ => true) r = some i) : selectRequest (accepts s) r = some i := by
  rw [requestStage, hi] at hst
  rcases selectRequest_cases hi with ⟨rfl, hpx, -⟩ | ⟨rfl, hup, -, hpx⟩ | ⟨rfl, hsl, -, hpx, hup⟩ |
    ⟨rfl, hse, -, hpx, hup, hsl⟩ <;> simp_all [selectRequest, accepts, legalIn]

/-- A placed request is the one the next step accepts. -/
theorem fetch_placeCode_request {r : Request} {i : Instr} (s : State)
    (hi : selectRequest (fun _ => true) r = some i) : fetch (placeCode (.request r) s) = some i :=
  fetch_of_arbitrate rfl (selectRequest_requestStage rfl rfl rfl hi)

/-- Each panel command has a label at which the sequencer runs it (R145 to R153). -/
theorem exists_commandSeat {p : Params} {r : CmdRow} (hr : r ∈ commandRows p) :
    ∃ stage label, commandSeat r.instr = some (stage, label) ∧ labelAction label = some (.instr r.instr) := by
  revert r
  simp [commandRows, commandSeat, labelAction]

theorem placeCode_opcode {op : Byte} {r : CmdRow} {stage : Stage} {label : Label}
    (hrow : rowOfOpcode Params.suggested op = some r) (hseat : commandSeat r.instr = some (stage, label)) (s : State) :
    placeCode (.opcode op) s = { s with seq := ⟨stage, label, true⟩, env.inputs.rst := .low } := by
  simp [placeCode, hrow, hseat]

/-- A placed code is fetched as the instruction it stands for, with `rst` low. -/
theorem fetch_placeCode {c : Code} {i : Instr} (hd : decode Params.suggested c = .ok i) (s : State) :
    fetch (placeCode c s) = some i ∧ (placeCode c s).env.inputs.rst = .low := by
  cases c with
  | request r => exact ⟨fetch_placeCode_request s (decode_request.mp hd), rfl⟩
  | port a =>
    obtain rfl : .fbRead a = i := Except.ok.inj hd
    exact ⟨fetch_port rfl rfl, rfl⟩
  | opcode op =>
    obtain ⟨r, hrow, rfl⟩ := exists_row_of_decode hd
    obtain ⟨stage, label, hseat, hact⟩ := exists_commandSeat (mem_of_rowOfOpcode hrow).1
    rw [placeCode_opcode hrow hseat]
    exact ⟨fetch_of_label rfl hact, rfl⟩

/-- Settles O7: a table word is placed as its code. -/
theorem placedWordIsFetched : Obligations.PlacedWordIsFetched := by
  intro s nbits w i h
  obtain ⟨c, hc, hd⟩ := decodeTableWord_eq_some h
  rw [withFetchWord_of_code hc]
  exact fetch_placeCode hd s

/-! ### The idle step -/

@[simp] theorem nextInputs_busyIn (s : State) : (nextInputs s).env.busyIn = s.env.busyIn := by
  cases h : s.env.script <;> simp [nextInputs, h]

@[simp] theorem nextInputs_lineIn (s : State) : (nextInputs s).env.lineIn = s.env.lineIn := by
  cases h : s.env.script <;> simp [nextInputs, h]

/-- The inputs of the next step are all that moves on. -/
theorem nextInputs_frame (s : State) : nextInputs s = { s with env := (nextInputs s).env } := by
  cases h : s.env.script <;> simp [nextInputs, h]

/-- The read port changes nothing but its answer and the count of open answers. -/
theorem readPort_frame (a : FbAddr) (s : State) :
    readPort a s =
      { s with fbRdata := (readPort a s).fbRdata, draws.portIx := (readPort a s).draws.portIx } := by
  cases h : portValid s a
  · rw [readPort_invalid s h]
  · rw [readPort_valid s h]

/-- The end of a step of one clock edge: what it leaves alone. -/
theorem endStep_one_frame (s : State) :
    endStep 1 s =
      { s with
        fbRdata := (endStep 1 s).fbRdata
        busySync := (endStep 1 s).busySync
        env := (endStep 1 s).env
        draws.portIx := (endStep 1 s).draws.portIx
        draws.edgeIx := s.draws.edgeIx + 1 } := by
  unfold endStep
  rw [nextInputs_frame, clockEdges, clockEdges, clockEdge, readPort_frame]

/-- A step without a sequence and without an acceptable request (R91, R282). -/
theorem step_of_no_request {s : State} (hr : s.env.inputs.rst = .low) (hb : s.seq.busy = false)
    (hi : arbitrate s = none) : step s = .next (endStep 1 (clearPulses s)) := by
  simp [step, hr, runStep, hb, hostStep, hi]

/-- Settles O9: such a step is the end of a step of one clock edge, after the pulses have fallen. -/
theorem idleStepChangesNothing : Obligations.IdleStepChangesNothing := by
  intro s hr hb hi
  refine ⟨_, step_of_no_request hr hb hi, endStep_one_frame (clearPulses s), endStep_one_busySync rfl rfl rfl, ?_, ?_⟩
  · simp [endStep]
  · simp [endStep, clockEdges]

end Sys2Proof.Machine
end

section
/-! PROOFS, family 30_encoding: the frames an instruction emits (R95 to R97), and what a reader of the bus sees of a step
(R98, R108). -/

namespace Sys2Proof.Machine

/-! ### The send primitives -/

/-- Settles O20: SEND_CMD is one command frame (R95). -/
theorem sendCmdEmitsFrame : Obligations.SendCmdEmitsFrame := fun s op =>
  ⟨afterBus .cmd op (cmdFrame op) s, congrArg _ (runMicros_cmd op s), rfl, rfl, rfl, rfl, rfl, rfl⟩

/-- Settles O21: SEND_DATA is one data frame (R96). -/
theorem sendDataEmitsFrame : Obligations.SendDataEmitsFrame := fun s b =>
  ⟨afterBus .data b (dataFrame b) s, congrArg _ (runMicros_data b s), rfl, rfl, rfl, rfl, rfl, rfl⟩

/-! ### The pieces emitted between two states -/

/-- The events `t` has and `s` has not are the pieces `fs`, one after another. -/
def Emits (s t : State) (fs : List (List Event)) : Prop :=
  t.trace.map Stamped.event = s.trace.map Stamped.event ++ fs.flatten

/-- The events `t` has and `s` has not are whole units. -/
def EmitsUnits (s t : State) : Prop := ∃ fs, Emits s t fs ∧ ∀ f ∈ fs, EventUnit s.params f

theorem map_event_stampAll (n : Nat) (es : List Event) : (stampAll n es).map Stamped.event = es := by
  simp [stampAll, Function.comp_def]

theorem events_emittedSince {s t : State} {es : List Event}
    (h : t.trace.map Stamped.event = s.trace.map Stamped.event ++ es) :
    (emittedSince s t).map Stamped.event = es := by
  rw [emittedSince, List.map_drop, h, List.drop_left' (by simp)]

/-- Pieces emitted at one model time. -/
theorem emits_of_stampAll {s t : State} {n : Nat} {es : List Event} {fs : List (List Event)}
    (h : t.trace = s.trace ++ stampAll n es) (hfs : es = fs.flatten) : Emits s t fs := by
  rw [Emits, h, List.map_append, map_event_stampAll, hfs]

/-- Where the trace stands, nothing is emitted. -/
theorem emitsUnits_of_trace_eq {s t : State} (h : t.trace = s.trace) : EmitsUnits s t :=
  ⟨[], by rw [Emits, h, List.flatten_nil, List.append_nil], by simp⟩

/-- One unit. -/
theorem emitsUnits_of_unit {s t : State} {n : Nat} {f : List Event} (h : t.trace = s.trace ++ stampAll n f)
    (hf : EventUnit s.params f) : EmitsUnits s t :=
  ⟨[f], emits_of_stampAll h (by simp), by simpa using hf⟩

/-! The kinds of unit. -/

theorem eventUnit_cmdFrame {p : Params} {op : Byte} (h : op ∈ p.opcodes) : EventUnit p (cmdFrame op) := .inl ⟨op, h, rfl⟩
theorem eventUnit_dataFrame (p : Params) (b : Byte) : EventUnit p (dataFrame b) := .inr (.inl ⟨b, rfl⟩)
theorem eventUnit_blockFrame (p : Params) {bs : List Byte} (h : bs ≠ []) : EventUnit p (blockFrame bs) :=
  .inr (.inr (.inl ⟨bs, h, rfl⟩))
theorem eventUnit_rst (p : Params) (l : Bool) : EventUnit p [.rst l] := .inr (.inr (.inr (.inl ⟨l, rfl⟩)))
theorem eventUnit_log (p : Params) (w : Site) : EventUnit p [.log w] := .inr (.inr (.inr (.inr ⟨w, rfl⟩)))

theorem framePayload_ne_nil (s : State) : framePayload s ≠ [] :=
  List.ne_nil_of_length_pos (by rw [framePayload_length]; decide)

/-! ### What the instructions emit -/

/-- A panel command's trace: its command frame and one data frame a byte (R102). -/
theorem trace_paramCmd (op : Byte) (data : List Byte) (s : State) :
    (runMicros (paramCmdMicros op data) s).trace =
      s.trace ++ stampAll s.time (cmdFrame op ++ data.flatMap dataFrame) := by
  rcases List.eq_nil_or_concat data with rfl | ⟨bs, b, rfl⟩
  · rw [runMicros_paramCmd_nil, List.flatMap_nil, List.append_nil]
    rfl
  · rw [List.concat_eq_append, runMicros_paramCmd]
    rfl

theorem emitsUnits_paramCmd {s : State} {op : Byte} (data : List Byte) (hop : op ∈ s.params.opcodes) :
    EmitsUnits s (runMicros (paramCmdMicros op data) s) := by
  refine ⟨cmdFrame op :: data.map dataFrame, emits_of_stampAll (trace_paramCmd op data s) rfl, ?_⟩
  rw [List.forall_mem_cons, List.forall_mem_map]
  exact ⟨eventUnit_cmdFrame hop, fun b _ => eventUnit_dataFrame _ b⟩

/-- What sends the frame payload (R151, R184): command frames `cmds` with one of the nine opcodes, then one block frame. -/
def EmitsFrame (s t : State) (cmds : List (List Event)) : Prop :=
  Emits s t (cmds ++ [blockFrame (framePayload s)]) ∧ ∀ f ∈ cmds, ∃ op ∈ s.params.opcodes, f = cmdFrame op

theorem EmitsFrame.units {s t : State} {cmds : List (List Event)} (h : EmitsFrame s t cmds) :
    ∀ f ∈ cmds ++ [blockFrame (framePayload s)], EventUnit s.params f := by
  rw [List.forall_mem_append, List.forall_mem_singleton]
  exact ⟨fun f hf => .inl (h.2 f hf), eventUnit_blockFrame _ (framePayload_ne_nil s)⟩

theorem EmitsFrame.emitsUnits {s t : State} {cmds : List (List Event)} (h : EmitsFrame s t cmds) : EmitsUnits s t :=
  ⟨_, h.1, h.units⟩

/-- SEND_BLOCK of the frame sends no command. -/
theorem emitsFrame_block (s : State) : EmitsFrame s (runMicros (blockMicros .rowFetch) s) [] := by
  rw [runMicros_block_rowFetch]
  exact ⟨emits_of_stampAll rfl (by simp), by simp⟩

/-- Bus traffic leaves the frame payload. -/
theorem framePayload_afterBus (m : BusMode) (b : Byte) (es : List Event) (s : State) :
    framePayload (afterBus m b es s) = framePayload s := framePayload_congr rfl rfl

/-- WRITE_RAM sends its command frame first (R151). -/
theorem emitsFrame_writeRam (s : State) :
    EmitsFrame s (runMicros (writeRamMicros s.params) s) [cmdFrame s.params.opWriteRam] := by
  rw [writeRamMicros, runMicros_append, runMicros_cmd, runMicros_block_rowFetch, afterBus_afterBus,
    framePayload_afterBus]
  exact ⟨emits_of_stampAll rfl (by simp), by simp [Params.opcodes]⟩

theorem emitsUnits_block {src : BlockSrc} (hsrc : src.nonempty = true) (s : State) :
    EmitsUnits s (runMicros (blockMicros src) s) := by
  cases src with
  | rowFetch => exact (emitsFrame_block s).emitsUnits
  | bytes bs =>
    rcases List.eq_nil_or_concat bs with rfl | ⟨l, b, rfl⟩
    · cases hsrc
    · rw [List.concat_eq_append, runMicros_block_bytes]
      exact emitsUnits_of_unit rfl (eventUnit_blockFrame _ (by simp))

/-- A wait reports a timeout or emits nothing (R210, R216). -/
theorem emitsUnits_wait (w : Site) (s : State) : EmitsUnits s (runMicros (waitMicros w s) s) := by
  rcases waitMicros_cases w s with ⟨-, h⟩ | ⟨-, k, -, -, -, h⟩ | ⟨-, -, h⟩ <;> rw [h]
  · exact emitsUnits_of_trace_eq rfl
  · exact emitsUnits_of_trace_eq rfl
  · exact emitsUnits_of_unit (n := s.time + 20000) rfl (eventUnit_log _ w)

/-- The reset pulse is three levels on the reset line (R173). -/
theorem emitsUnits_pulse (s : State) : EmitsUnits s (runMicros resetPulseMicros s) := by
  refine ⟨[[.rst true], [.rst false], [.rst true]], ?_, by simp [eventUnit_rst]⟩
  simp [Emits, runMicros_resetPulse, afterPulse]

/-- A request emits nothing, accepted or not. -/
theorem emitsUnits_request {s t u : State} {op : HostOp} (hu : u.trace = s.trace)
    (h : (if accepts s op then .next (raiseAck op u) else .next s : Host.Outcome State Fault Refusal) = .next t) :
    EmitsUnits s t := by
  split at h <;> obtain rfl := Host.Outcome.next.inj h
  · exact emitsUnits_of_trace_eq (by rw [raiseAck_trace, hu])
  · exact emitsUnits_of_trace_eq rfl

/-- Every well-formed instruction emits whole units. -/
theorem emitsUnits_of_exec {i : Instr} {s t : State} (hw : i.wellFormed s.params = true) (h : exec i s = .next t) :
    EmitsUnits s t := by
  cases i with
  | setPixel x y on => exact emitsUnits_request (writePixel_trace s x y on) h
  | update => exact emitsUnits_request (startUpdate_trace s) h
  | sleep => exact emitsUnits_request (startSleep_trace s) h
  | setup hr hb n => exact emitsUnits_request (startSetup_trace s hr hb n) h
  | fbRead a =>
    obtain rfl := Host.Outcome.next.inj h
    exact emitsUnits_of_trace_eq (readPort_trace s a)
  | fill =>
    obtain rfl := Host.Outcome.next.inj h
    exact emitsUnits_of_trace_eq rfl
  | delay n =>
    obtain rfl := Host.Outcome.next.inj h
    exact emitsUnits_of_trace_eq (by rw [runMicros_delay])
  | waitIdle w =>
    obtain rfl := Host.Outcome.next.inj h
    exact emitsUnits_wait w s
  | resetPulse =>
    obtain rfl := Host.Outcome.next.inj h
    exact emitsUnits_pulse s
  | sendCmd op =>
    obtain rfl := Host.Outcome.next.inj h
    rw [runMicros_cmd]
    exact emitsUnits_of_unit rfl (eventUnit_cmdFrame (by simpa [Instr.wellFormed] using hw))
  | sendData b =>
    obtain rfl := Host.Outcome.next.inj h
    rw [runMicros_data]
    exact emitsUnits_of_unit rfl (eventUnit_dataFrame _ b)
  | sendBlock src =>
    obtain rfl := Host.Outcome.next.inj h
    exact emitsUnits_block hw s
  | writeRam =>
    obtain rfl := Host.Outcome.next.inj h
    exact (emitsFrame_writeRam s).emitsUnits
  | swreset | dataEntryMode | setXRange | setYRange | setXCounter | setYCounter | activate | deepSleep =>
    obtain rfl := Host.Outcome.next.inj h
    exact emitsUnits_paramCmd _ (by simp [Params.opcodes])

theorem exists_emitsFrame_of_exec {i : Instr} {s t : State} (hi : i = .writeRam ∨ i = .sendBlock .rowFetch)
    (h : exec i s = .next t) : ∃ cmds, EmitsFrame s t cmds := by
  rcases hi with rfl | rfl <;> obtain rfl := Host.Outcome.next.inj h
  · exact ⟨_, emitsFrame_writeRam s⟩
  · exact ⟨_, emitsFrame_block s⟩

/-- Settles O54: where the frame payload is sent the pieces are command frames and its block frame; every other
instruction emits whole units. -/
theorem everyInstructionEmitsWholeFrames : Obligations.EveryInstructionEmitsWholeFrames := by
  intro s t i hw h
  by_cases hi : i = .writeRam ∨ i = .sendBlock .rowFetch
  · obtain ⟨cmds, hframe⟩ := exists_emitsFrame_of_exec hi h
    have hunits := hframe.units
    obtain ⟨hemits, hcmds⟩ := hframe
    refine ⟨_, events_emittedSince hemits, hunits, fun _ => ⟨by simp, ?_⟩⟩
    rw [List.forall_mem_append, List.forall_mem_singleton]
    exact ⟨fun f hf => .inr ((hcmds f hf).imp fun _ hop => hop.2), .inl rfl⟩
  · obtain ⟨fs, hfs, hunits⟩ := emitsUnits_of_exec hw h
    exact ⟨fs, events_emittedSince hfs, hunits, fun h => absurd h hi⟩

/-! ### Steps -/

/-- The sequencer's own instructions are well-formed. -/
theorem wellFormed_of_labelAction {l : Label} {i : Instr} (h : labelAction l = some (.instr i)) (p : Params) :
    i.wellFormed p = true := by
  cases l <;> simp only [labelAction, Option.some.injEq, SeqAction.instr.injEq, reduceCtorEq] at h <;> subst h <;> rfl

/-- So is every request. -/
theorem wellFormed_of_arbitrate {s : State} {i : Instr} (h : arbitrate s = some i) (p : Params) :
    i.wellFormed p = true := by
  rcases selectRequest_cases h with ⟨rfl, -⟩ | ⟨rfl, -⟩ | ⟨rfl, -⟩ | ⟨rfl, -⟩ <;> rfl

theorem emitsUnits_action {l : Label} {act : SeqAction} (ha : labelAction l = some act) (s : State) :
    EmitsUnits s (runMicros (actionMicros act s) s) := by
  cases act with
  | instr i => exact emitsUnits_of_exec (wellFormed_of_labelAction ha _) (runAction_eq_micros ha s)
  | drive level => exact emitsUnits_of_unit (n := s.time) rfl (eventUnit_rst _ level)

/-- The events `t` has and `s` has not begin a list of whole units, the last of which may be cut short (R283). -/
def EmitsUnitsCut (s t : State) : Prop :=
  ∃ (fs : List (List Event)) (es : List Event),
    t.trace.map Stamped.event = s.trace.map Stamped.event ++ es ∧ es <+: fs.flatten ∧ ∀ f ∈ fs, EventUnit s.params f

theorem EmitsUnits.cut {s t : State} (h : EmitsUnits s t) : EmitsUnitsCut s t := by
  obtain ⟨fs, hfs, hunits⟩ := h
  exact ⟨fs, _, hfs, List.prefix_rfl, hunits⟩

/-- A beginning of a list of actions emits a beginning of its events. -/
theorem emitsUnitsCut_take {s : State} {ms : List Micro} (k : Nat) (h : EmitsUnits s (runMicros ms s)) :
    EmitsUnitsCut s (runMicros (ms.take k) s) := by
  obtain ⟨fs, hfs, hunits⟩ := h
  obtain ⟨es, hes⟩ := runMicros_trace_prefix (ms.take k) s
  have hcut : (runMicros (ms.take k) s).trace <+: (runMicros ms s).trace := by
    have h := runMicros_trace_prefix (ms.drop k) (runMicros (ms.take k) s)
    rwa [← runMicros_append, List.take_append_drop] at h
  have hev := hcut.map Stamped.event
  rw [hfs, ← hes, List.map_append, List.prefix_append_right_inj] at hev
  exact ⟨fs, es.map Stamped.event, by rw [← hes, List.map_append], hev, hunits⟩

/-- What is emitted is read from the two traces and the parameters. -/
theorem EmitsUnitsCut.congr {s t s' t' : State} (h : EmitsUnitsCut s t) (hp : s'.params = s.params)
    (hs : s'.trace = s.trace) (ht : t'.trace = t.trace) : EmitsUnitsCut s' t' := by
  rwa [EmitsUnitsCut, hp, hs, ht]

/-- Every step emits whole units, but for one that `rst` cuts short: what ends the step emits nothing. -/
theorem emitsUnitsCut_of_step {s t : State} (h : step s = .next t) : EmitsUnitsCut s t := by
  rcases step_cases h with ⟨-, u, rfl, rfl | ⟨k, act, -, -, ha, rfl⟩⟩ | ⟨-, -, act, ha, rfl⟩ |
    ⟨-, -, ⟨i, u, hi, hu, rfl⟩ | ⟨-, rfl⟩⟩
  · exact (emitsUnits_of_trace_eq (by simp)).cut
  · exact (emitsUnitsCut_take k (emitsUnits_action ha (clearPulses s))).congr rfl rfl (by simp)
  · exact (emitsUnits_action ha (clearPulses s)).cut.congr rfl rfl (by simp)
  · exact (emitsUnits_of_exec (wellFormed_of_arbitrate hi _) hu).cut.congr rfl rfl (by simp)
  · exact (emitsUnits_of_trace_eq (by simp)).cut

/-! ### A reader of the bus (R98) -/

theorem classify_blockFrame (m : BusMode) (bs : List Byte) (es : List Event) :
    classify m (blockFrame bs ++ es) = bs.map (fun b => (BusMode.data, b)) ++ classify .data es := by
  have hbytes : classify .data (bs.map Event.xfer ++ .sel false :: es) =
      bs.map (fun b => (BusMode.data, b)) ++ classify .data es := by
    induction bs with
    | nil => rfl
    | cons b bs ih => simp [classify, ih]
  simpa [blockFrame, classify] using hbytes

/-- Of whole units a reader takes no command byte but the nine opcodes, whatever the mode before them. -/
theorem mem_opcodes_of_classify_units {p : Params} {fs : List (List Event)} (h : ∀ f ∈ fs, EventUnit p f) (m : BusMode) :
    ∀ mb ∈ classify m fs.flatten, mb.1 = .cmd → mb.2 ∈ p.opcodes := by
  induction fs generalizing m with
  | nil => simp [classify]
  | cons f fs ih =>
    rw [List.forall_mem_cons] at h
    obtain ⟨hf, hfs⟩ := h
    rw [List.flatten_cons]
    rcases hf with ⟨op, hop, rfl⟩ | ⟨b, rfl⟩ | ⟨bs, -, rfl⟩ | ⟨l, rfl⟩ | ⟨w, rfl⟩
    · exact List.forall_mem_cons.mpr ⟨fun _ => hop, ih hfs .cmd⟩
    · exact List.forall_mem_cons.mpr ⟨nofun, ih hfs .data⟩
    · rw [classify_blockFrame, List.forall_mem_append, List.forall_mem_map]
      exact ⟨fun _ _ => nofun, ih hfs .data⟩
    · exact ih hfs m
    · exact ih hfs m

/-- A beginning of the events reads as a beginning of the bytes. -/
theorem classify_prefix {es es' : List Event} (h : es <+: es') (m : BusMode) : classify m es <+: classify m es' := by
  obtain ⟨rest, rfl⟩ := h
  induction es generalizing m with
  | nil => exact List.nil_prefix
  | cons e es ih =>
    cases e with
    | mode m' => exact ih m'
    | xfer b => exact List.cons_prefix_cons.mpr ⟨rfl, ih m⟩
    | rst | sel | log => exact ih m

/-- Settles O28: what a step emits begins whole units, whose command bytes are opcodes. -/
theorem commandBytesAreOpcodes : Obligations.CommandBytesAreOpcodes := by
  intro s t h mb hmb
  obtain ⟨fs, es, hes, hcut, hunits⟩ := emitsUnitsCut_of_step h
  rw [events_emittedSince hes] at hmb
  exact mem_opcodes_of_classify_units hunits .data mb ((classify_prefix hcut .data).subset hmb)

end Sys2Proof.Machine
end

section
/-! PROOFS, family 40_pixel_buffer: the bit of a pixel in its byte (R61, R64). -/

namespace Sys2Proof.Machine

/-! ### The byte and the bit of a pixel -/

/-- A row is 19 bytes, so the pixels of a byte are eight neighbours of one row (R61). -/
theorem pixelIndex_eq (x y : Coord) : pixelIndex x y = y.toNat * 19 + x.toNat / 8 := by
  simp only [pixelIndex, Config.width]
  omega

/-- The mask of column `x` has bit `7 - x mod 8` alone. -/
theorem pixelMask_eq_twoPow (x : Coord) : pixelMask x = BitVec.twoPow 8 (7 - x.toNat % 8) := by
  have masks : ∀ k : Fin 8, 0x80#8 >>> k.val = BitVec.twoPow 8 (7 - k) := by decide
  exact masks ⟨x.toNat % 8, Nat.mod_lt _ (by decide)⟩

theorem getLsbD_pixelMask (x : Coord) (i : Nat) :
    (pixelMask x).getLsbD i = decide (i = 7 - x.toNat % 8) := by
  rw [pixelMask_eq_twoPow, BitVec.getLsbD_twoPow, decide_eq_true (by omega), Bool.true_and, decide_eq_decide, eq_comm]

/-- To read a pixel of a byte by its mask is to read its bit. -/
theorem and_pixelMask_ne_zero (b : Byte) (x : Coord) :
    (b &&& pixelMask x != 0#8) = b.getLsbD (7 - x.toNat % 8) := by
  have hmask : pixelMask x ≠ 0#8 := by
    intro h
    simpa [h] using getLsbD_pixelMask x (7 - x.toNat % 8)
  have hand : b &&& pixelMask x = if b.getLsbD (7 - x.toNat % 8) then pixelMask x else 0#8 := by
    rw [pixelMask_eq_twoPow, BitVec.and_twoPow]
  cases hbit : b.getLsbD (7 - x.toNat % 8) <;> simp [hand, hbit, hmask]

/-- Painting a pixel gives its bit the value asked for and leaves the seven others (R64, R120). -/
theorem getLsbD_paintByte (old : Byte) (x : Coord) (on : Bool) {i : Nat} (hi : i < 8) :
    (paintByte old x on).getLsbD i = if i = 7 - x.toNat % 8 then on else old.getLsbD i := by
  cases on
  case true =>
    rw [paintByte, if_pos rfl, BitVec.getLsbD_or, getLsbD_pixelMask]
    split_ifs with h <;> simp [h]
  case false =>
    rw [paintByte, if_neg Bool.false_ne_true, BitVec.getLsbD_and, BitVec.getLsbD_not, getLsbD_pixelMask]
    split_ifs with h <;> simp [h, hi]

/-- Two pixels of the panel are never the same bit of the same byte (R61). -/
theorem pixelBit_ne_of_same_byte {x y x' y' : Coord} (h : inBounds x y = true) (h' : inBounds x' y' = true)
    (hne : (x', y') ≠ (x, y)) (hindex : pixelIndex x' y' = pixelIndex x y) :
    7 - x'.toNat % 8 ≠ 7 - x.toNat % 8 := by
  intro hbit
  obtain ⟨hx, hy⟩ := inBounds_toNat.mp h
  obtain ⟨hx', hy'⟩ := inBounds_toNat.mp h'
  rw [pixelIndex_eq, pixelIndex_eq] at hindex
  have hyy : y' = y := BitVec.eq_of_toNat_eq (by omega)
  have hxx : x' = x := BitVec.eq_of_toNat_eq (by omega)
  exact hne (by rw [hxx, hyy])

/-! ### The byte written -/

/-- In bounds the pixel's byte is painted (R120). -/
theorem memRead_writePixel_same {x y : Coord} (h : inBounds x y = true) (on : Bool) (s : State) :
    memRead (writePixel x y on s).fb (pixelIndex x y) = some (paintByte (fbByte s (pixelIndex x y)) x on) := by
  rw [writePixel_fb_in s h, memRead_memWrite_same]

theorem fbByte_writePixel_same {x y : Coord} (h : inBounds x y = true) (on : Bool) (s : State) :
    fbByte (writePixel x y on s) (pixelIndex x y) = paintByte (fbByte s (pixelIndex x y)) x on :=
  fbByte_of_memRead (memRead_writePixel_same h on s)

/-- No other byte is written. -/
theorem memRead_writePixel_other (x y : Coord) (on : Bool) (s : State) {a : Nat} (ha : a ≠ pixelIndex x y) :
    memRead (writePixel x y on s).fb a = memRead s.fb a := by
  by_cases h : inBounds x y = true
  · rw [writePixel_fb_in s h, memRead_memWrite_other _ _ ha]
  · rw [writePixel_out s (by simpa using h)]

theorem fbByte_writePixel_other (x y : Coord) (on : Bool) (s : State) {a : Nat} (ha : a ≠ pixelIndex x y) :
    fbByte (writePixel x y on s) a = fbByte s a := by
  simp [fbByte, memRead_writePixel_other x y on s ha]

theorem fbByte_raiseAck (op : HostOp) (s : State) (a : Nat) : fbByte (raiseAck op s) a = fbByte s a :=
  fbByte_congr (raiseAck_fb s op) (by rw [raiseAck_draws]) a

/-- The pixel write changes FB and FB_ADDR alone (R120). -/
theorem writePixel_frame (x y : Coord) (on : Bool) (s : State) :
    writePixel x y on s =
      { s with fb := (writePixel x y on s).fb, dp.fbAddr := (writePixel x y on s).dp.fbAddr } := by
  by_cases h : inBounds x y = true
  · simp [writePixel, h]
  · rw [writePixel_out s (by simpa using h)]

/-- The bit of a painted pixel is the value written. -/
theorem pixel_writePixel_same {x y : Coord} (h : inBounds x y = true) (on : Bool) (s : State) :
    (fbByte (writePixel x y on s) (pixelIndex x y) &&& pixelMask x != 0#8) = on := by
  rw [fbByte_writePixel_same h, and_pixelMask_ne_zero, getLsbD_paintByte _ _ _ (by omega), if_pos rfl]

/-- Every other pixel of the panel is in another byte, or is another bit of the byte painted. -/
theorem pixel_writePixel_other {x y x' y' : Coord} (h : inBounds x y = true) (h' : inBounds x' y' = true)
    (hne : (x', y') ≠ (x, y)) (on : Bool) (s : State) :
    (fbByte (writePixel x y on s) (pixelIndex x' y') &&& pixelMask x' != 0#8) =
      (fbByte s (pixelIndex x' y') &&& pixelMask x' != 0#8) := by
  by_cases hindex : pixelIndex x' y' = pixelIndex x y
  · have hbit := pixelBit_ne_of_same_byte h h' hne hindex
    rw [hindex, fbByte_writePixel_same h, and_pixelMask_ne_zero, getLsbD_paintByte _ _ _ (by omega), if_neg hbit,
      and_pixelMask_ne_zero]
  · rw [fbByte_writePixel_other x y on s hindex]

end Sys2Proof.Machine
end

section
/-! PROOFS, family 40_pixel_buffer: SET_PIXEL, FILL and FB_READ. -/

namespace Sys2Proof.Machine

/-! ### SET_PIXEL -/

/-- Where SET_PIXEL is accepted (R231, R233). -/
theorem accepts_setPixel {s : State} (hb : s.seq.busy = false) (hr : s.env.inputs.rst ≠ .high)
    (hst : s.seq.stage = .idle ∨ s.seq.stage = .sleeping) : accepts s .setPixel = true :=
  accepts_true.mpr ⟨hb, hr, legalIn_setPixel.mpr hst⟩

/-- An accepted SET_PIXEL writes the pixel and is acknowledged. -/
theorem exec_setPixel_accepted {s : State} (h : accepts s .setPixel = true) (x y : Coord) (on : Bool) :
    exec (.setPixel x y on) s = .next (raiseAck .setPixel (writePixel x y on s)) :=
  if_pos h

/-- Out of bounds the acknowledge is all there is (R121). -/
theorem exec_setPixel_out {s : State} (h : accepts s .setPixel = true) {x y : Coord} (on : Bool)
    (hout : inBounds x y = false) : exec (.setPixel x y on) s = .next { s with pins.pxAck := true } := by
  rw [exec_setPixel_accepted h, writePixel_out s hout, raiseAck]

/-- Settles O14: the byte at the pixel's index is painted, and no other byte is written. -/
theorem setPixelWritesOneBit : Obligations.SetPixelWritesOneBit := by
  refine ⟨fun p x y on => ⟨_, rfl, by simp [requestVector, Request.none], rfl, rfl, rfl⟩,
    fun _ => legalIn_setPixel, fun s x y on hb hr hst => ?_⟩
  have hacc := accepts_setPixel hb hr hst
  have hbounds : inBounds x y = true ↔ 0 ≤ x.toInt ∧ x.toInt < 152 ∧ 0 ≤ y.toInt ∧ y.toInt < 296 :=
    inBounds_iff.trans and_assoc
  refine ⟨fun hin => ?_, fun hout => exec_setPixel_out hacc on (by simpa using mt hbounds.mp hout)⟩
  replace hin := hbounds.mpr hin
  refine ⟨_, exec_setPixel_accepted hacc x y on, fun old hold => ?_, fun a ha => ?_, pixelIndex_eq x y,
    pixelIndex_lt hin, ?_⟩
  · change memRead s.fb (pixelIndex x y) = some old at hold
    change memRead (writePixel x y on s).fb (pixelIndex x y) = some (paintByte old x on)
    rw [memRead_writePixel_same hin, fbByte_of_memRead hold]
  · rw [raiseAck_fb]
    exact memRead_writePixel_other x y on s ha
  · rw [writePixel_frame]
    rfl

/-- Settles O15: the bounds test comes first. -/
theorem setPixelOutOfBounds : Obligations.SetPixelOutOfBounds := by
  have hbounds : ∀ x y : Coord,
      inBounds x y = true ↔ ¬(x.toInt < 0 ∨ 152 ≤ x.toInt ∨ y.toInt < 0 ∨ 296 ≤ y.toInt) := by
    intro x y
    rw [inBounds_iff]
    omega
  refine ⟨fun s x y on hb hr hst hout => exec_setPixel_out (accepts_setPixel hb hr hst) on ?_, hbounds, by decide⟩
  simpa using mt (hbounds x y).mp (not_not.mpr hout)

/-- Settles O16: the write is the pixel's bit alone, at the byte FB_ADDR is left at. -/
theorem setPixelReadsBack : Obligations.SetPixelReadsBack := by
  intro s t x y on _ hacc hin h
  obtain rfl := Host.Outcome.next.inj ((exec_setPixel_accepted hacc x y on).symm.trans h)
  simp only [fbByte_raiseAck]
  refine ⟨pixel_writePixel_same hin on s, ?_, fun x' y' hin' hne => pixel_writePixel_other hin hin' hne on s⟩
  have hlt := pixelIndex_lt hin
  rw [Config.fbBytes] at hlt
  rw [raiseAck_dp, writePixel_dp_in s hin, BitVec.toNat_ofNat, Nat.mod_eq_of_lt (by omega)]

/-! ### FILL -/

theorem exec_fill (s : State) : exec .fill s = .next (fillFb s) := rfl

/-- Settles O19. -/
theorem fillWritesWhite : Obligations.FillWritesWhite :=
  fun s => ⟨_, exec_fill s, memRead_memFilled, rfl⟩

/-! ### FB_READ -/

theorem exec_fbRead (a : FbAddr) (s : State) : exec (.fbRead a) s = .next (readPort a s) := rfl

/-- The domain of the read port (R124). -/
theorem portValid_iff {s : State} {a : FbAddr} :
    portValid s a = true ↔
      (s.seq.stage = .idle ∨ s.seq.stage = .sleeping) ∧ s.seq.busy = false ∧ a.toNat < Config.fbBytes := by
  simp [portValid, and_assoc]

/-- Settles O17: in its domain the port answers the byte. -/
theorem fbReadAnswersByte : Obligations.FbReadAnswersByte := by
  intro s a v hst hb ha hv
  rw [exec_fbRead, readPort_valid s (portValid_iff.mpr ⟨hst, hb, ha⟩), fbByte_of_memRead hv]

/-- Settles O18: outside its domain the port answers an open byte and counts it. -/
theorem fbReadOutsideDomain : Obligations.FbReadOutsideDomain := by
  intro s a hout
  have hport : portValid s a = false := by
    rw [← Bool.not_eq_true, portValid_iff]
    rintro ⟨hst, hb, ha⟩
    rcases hout with ⟨hidle, hsleep⟩ | hbusy | hge
    · exact hst.elim hidle hsleep
    · rw [hb] at hbusy
      cases hbusy
    · exact Nat.not_lt.mpr hge ha
  exact ⟨_, exec_fbRead a s, by rw [readPort_invalid s hport]⟩

end Sys2Proof.Machine
end

section
/-! PROOFS, family 41_protocol_encoder: what SEND_BLOCK and the panel commands put on the bus (R142 to R153). -/

namespace Sys2Proof.Machine

/-! ### Traffic on the bus and nothing else -/

/-- The instruction emits the events `es` in no model time and writes nothing but the bus latches, which rest with the mode
line at `m` and the last byte `b` (R144). -/
def ExecEmits (i : Instr) (s : State) (es : List Event) (m : BusMode) (b : Byte) : Prop :=
  ∃ t, exec i s = .next t ∧ t.trace = s.trace ++ stampAll s.time es ∧ OnlyBusDiffers s t ∧ BusRests m b t

theorem execEmits_of_afterBus {i : Instr} {s : State} {es : List Event} {m : BusMode} {b : Byte}
    (h : exec i s = .next (afterBus m b es s)) : ExecEmits i s es m b :=
  ⟨_, h, rfl, rfl, rfl, rfl, rfl, rfl⟩

/-- A panel command without data bytes. -/
theorem execEmits_cmd {i : Instr} {s : State} {op : Byte} (h : exec i s = .next (runMicros (paramCmdMicros op []) s)) :
    ExecEmits i s (cmdFrame op) .cmd op :=
  execEmits_of_afterBus (by rw [h, runMicros_paramCmd_nil])

/-- A panel command with the data bytes `bs` and then `b`. -/
theorem execEmits_paramCmd {i : Instr} {s : State} {op : Byte} (bs : List Byte) (b : Byte)
    (h : exec i s = .next (runMicros (paramCmdMicros op (bs ++ [b])) s)) :
    ExecEmits i s (cmdFrame op ++ (bs ++ [b]).flatMap dataFrame) .data b :=
  execEmits_of_afterBus (by rw [h, runMicros_paramCmd])

/-! ### The obligations on the encoder -/

/-- Settles O22: SEND_BLOCK of a byte sequence is one block frame (R97). -/
theorem sendBlockEmitsFrame : Obligations.SendBlockEmitsFrame := fun s bs last =>
  execEmits_of_afterBus (congrArg _ (runMicros_block_bytes bs last s))

/-- Settles O24: each of the four is a command with constant bytes. -/
theorem initCommandsEmit : Obligations.InitCommandsEmit := by
  refine ⟨⟨rfl, rfl, rfl, rfl, rfl, rfl⟩, fun _ _ => ⟨rfl, rfl, rfl, rfl, rfl, rfl⟩, fun s =>
    ⟨?swreset, ?dataEntryMode, ?setXRange, ?setYRange⟩⟩
  case swreset => exact execEmits_cmd rfl
  case dataEntryMode => exact execEmits_paramCmd [] 0x03#8 rfl
  case setXRange => exact execEmits_paramCmd [0x01#8] 0x13#8 rfl
  case setYRange => exact execEmits_paramCmd [0x00#8, 0x00#8, 0x28#8] 0x01#8 rfl

/-- Settles O25: each of the four is a command with constant bytes, its opcode the board's. -/
theorem openOpcodeCommandsEmit : Obligations.OpenOpcodeCommandsEmit := by
  refine ⟨⟨rfl, rfl, rfl, rfl⟩, fun s => ⟨?setXCounter, ?setYCounter, ?activate, ?deepSleep⟩⟩
  case setXCounter => exact execEmits_paramCmd [] 0x01#8 rfl
  case setYCounter => exact execEmits_paramCmd [0x27#8] 0x01#8 rfl
  case activate => exact execEmits_cmd rfl
  case deepSleep => exact execEmits_paramCmd [] 0x01#8 rfl

/-- WRITE_RAM (R151): the command frame and the block frame are traffic one after the other, and the counters are left where
the frame ends. -/
theorem exec_writeRam (s : State) :
    exec .writeRam s = .next
      { afterBus .data (fbByte s 18) (cmdFrame s.params.opWriteRam ++ blockFrame (framePayload s)) s with
        dp := { s.dp with rowCnt := 295#9, colCnt := 18#5, fbAddr := 18#13 } } := by
  rw [exec, execWriteRam, writeRamMicros, runMicros_append, runMicros_cmd, runMicros_block_rowFetch, afterBus_afterBus,
    framePayload_afterBus]
  rfl

/-- A block frame is its bytes between three events (R97). -/
theorem length_blockFrame (bs : List Byte) : (blockFrame bs).length = bs.length + 3 := by
  simp [blockFrame]

/-- Settles O26: 4 events of the command frame and 5627 of the block frame. -/
theorem writeRamSendsFrame : Obligations.WriteRamSendsFrame := by
  refine ⟨rfl, fun s => ⟨_, exec_writeRam s, rfl, ?length, rfl, ⟨rfl, rfl, rfl, rfl⟩, rfl⟩⟩
  case length => rw [List.length_append, length_blockFrame, framePayload_length]; rfl

end Sys2Proof.Machine
end

section
/-! PROOFS, family 41_protocol_encoder: the trace grows in the order of model time (R143, R221, R283). -/

namespace Sys2Proof.Machine

/-- `t` has the trace of `s` and after it events stamped between the times of `s` and `t`, in order (R143, R221). -/
def GrowsInOrder (s t : State) : Prop :=
  ∃ new, t.trace = s.trace ++ new ∧ s.time ≤ t.time ∧ (∀ e ∈ new, s.time ≤ e.time ∧ e.time ≤ t.time) ∧
    new.Pairwise fun d e => d.time ≤ e.time

/-- Where trace and time stand, the trace is in order. -/
theorem growsInOrder_of_eq {s t : State} (htr : t.trace = s.trace) (hti : t.time = s.time) : GrowsInOrder s t :=
  ⟨[], by rw [htr, List.append_nil], hti.ge, by simp, .nil⟩

/-- One part of a run after another: the later part's events carry later times. -/
theorem GrowsInOrder.trans {s t u : State} (h : GrowsInOrder s t) (h' : GrowsInOrder t u) : GrowsInOrder s u := by
  obtain ⟨new, htr, hti, hmem, hord⟩ := h
  obtain ⟨new', htr', hti', hmem', hord'⟩ := h'
  refine ⟨new ++ new', by rw [htr', htr, List.append_assoc], hti.trans hti', ?times, ?order⟩
  case times =>
    rw [List.forall_mem_append]
    exact ⟨fun e he => ⟨(hmem e he).1, (hmem e he).2.trans hti'⟩,
      fun e he => ⟨hti.trans (hmem' e he).1, (hmem' e he).2⟩⟩
  case order =>
    exact List.pairwise_append.mpr ⟨hord, hord', fun d hd e he => (hmem d hd).2.trans (hmem' e he).1⟩

/-- An action emits at most one event, at the time it starts. -/
theorem growsInOrder_runMicro (m : Micro) (s : State) : GrowsInOrder s (runMicro m s) := by
  obtain ⟨es, htr, -⟩ := runMicro_trace m s
  have hti : s.time ≤ (runMicro m s).time := runMicros_time_le [m] s
  refine ⟨_, htr, hti, ?times, ?order⟩
  case times =>
    intro e he
    obtain ⟨_, -, rfl⟩ := List.mem_map.mp he
    exact ⟨le_rfl, hti⟩
  case order => exact List.pairwise_map.mpr (List.pairwise_of_forall fun _ _ => le_rfl)

theorem growsInOrder_runMicros (ms : List Micro) (s : State) : GrowsInOrder s (runMicros ms s) := by
  induction ms generalizing s with
  | nil => exact growsInOrder_of_eq rfl rfl
  | cons m ms ih => exact (growsInOrder_runMicro m s).trans (ih _)

/-- A request emits nothing and takes no time, accepted or not. -/
theorem growsInOrder_request {s t u : State} {op : HostOp} (htr : u.trace = s.trace) (hti : u.time = s.time)
    (h : (if accepts s op then .next (raiseAck op u) else .next s : Host.Outcome State Fault Refusal) = .next t) :
    GrowsInOrder s t := by
  split at h <;> obtain rfl := Host.Outcome.next.inj h
  · exact growsInOrder_of_eq (by rw [raiseAck_trace, htr]) (by rw [raiseAck_time, hti])
  · exact growsInOrder_of_eq rfl rfl

/-- Every instruction keeps the order: a request and the read port emit nothing, the others are lists of actions. -/
theorem growsInOrder_of_exec {i : Instr} {s t : State} (h : exec i s = .next t) : GrowsInOrder s t := by
  cases i with
  | setPixel x y on => exact growsInOrder_request (writePixel_trace s x y on) (writePixel_time s x y on) h
  | update => exact growsInOrder_request (startUpdate_trace s) (startUpdate_time s) h
  | sleep => exact growsInOrder_request (startSleep_trace s) (startSleep_time s) h
  | setup hr hb n => exact growsInOrder_request (startSetup_trace s hr hb n) (startSetup_time s hr hb n) h
  | fbRead a =>
    obtain rfl := Host.Outcome.next.inj h
    exact growsInOrder_of_eq (readPort_trace s a) (readPort_time s a)
  | _ =>
    obtain rfl := Host.Outcome.next.inj h
    exact growsInOrder_runMicros _ s

/-- The order is read from the two traces and the two times. -/
theorem GrowsInOrder.congr {s t s' t' : State} (h : GrowsInOrder s t) (hs : s'.trace = s.trace) (hs' : s'.time = s.time)
    (ht : t'.trace = t.trace) (ht' : t'.time = t.time) : GrowsInOrder s' t' := by
  rwa [GrowsInOrder, hs, hs', ht, ht']

/-- Every step keeps the order: a step's end and a block reset leave trace and time, so a step cut short counts by the actions
it has done (R283). -/
theorem growsInOrder_of_step {s t : State} (h : step s = .next t) : GrowsInOrder s t := by
  rcases step_cases h with ⟨-, u, rfl, rfl | ⟨k, act, -, -, -, rfl⟩⟩ | ⟨-, -, act, -, rfl⟩ |
    ⟨-, -, ⟨i, u, -, hu, rfl⟩ | ⟨-, rfl⟩⟩
  · exact growsInOrder_of_eq (by simp) (by simp)
  · exact (growsInOrder_runMicros ((actionMicros act (clearPulses s)).take k) (clearPulses s)).congr rfl rfl (by simp)
      (by simp)
  · exact (growsInOrder_runMicros (actionMicros act (clearPulses s)) (clearPulses s)).congr rfl rfl (by simp) (by simp)
  · exact (growsInOrder_of_exec hu).congr rfl rfl (by simp) (by simp)
  · exact growsInOrder_of_eq (by simp) (by simp)

/-- Settles O47: what a step emits is what it appends to the trace. -/
theorem traceGrowsInOrder : Obligations.TraceGrowsInOrder := by
  intro s t h
  obtain ⟨new, htr, hti, hmem, hord⟩ := growsInOrder_of_step h
  have hnew : emittedSince s t = new := by rw [emittedSince, htr, List.drop_left]
  rw [hnew, htr]
  exact ⟨List.prefix_append _ _, hti, hmem, hord⟩

end Sys2Proof.Machine
end

section
/-! PROOFS, family 42_state_machine: the instruction a step runs, the acceptance of SETUP, UPDATE and SLEEP, and the
reset pulse. -/

namespace Sys2Proof.Machine

/-! ### The instruction a step runs -/

/-- A step of a sequence runs the instruction at STEP (R22). -/
theorem step_of_instr {s : State} {i : Instr} (hr : s.env.inputs.rst = .low) (hb : s.seq.busy = true)
    (ha : labelAction s.seq.label = some (.instr i)) :
    step s = mapNext (fun t => endStep s.params.syncStages (advanceSeq t)) (exec i (clearPulses s)) := by
  simp [step, hr, runStep, hb, sequencerStep, ha, runAction]

/-- A step without a sequence runs the accepted request. -/
theorem step_of_arbitrate {s : State} {i : Instr} (hr : s.env.inputs.rst = .low) (hb : s.seq.busy = false)
    (hi : arbitrate s = some i) : step s = mapNext (endStep (edgesOf i s.params)) (exec i (clearPulses s)) := by
  simp [step, hr, runStep, hb, hostStep, hi]

/-- While a sequence is in progress, what is fetched is the instruction at STEP. -/
theorem fetch_of_busy {s : State} {i : Instr} (hb : s.seq.busy = true) :
    fetch s = some i ↔ labelAction s.seq.label = some (.instr i) := by
  cases ha : labelAction s.seq.label with
  | none => simp [fetch, hb, ha]
  | some act => cases act <;> simp [fetch, hb, ha]

/-- Settles O6: the three sources of the instruction fetched, and the step from each. -/
theorem stepRunsFetchedInstruction : Obligations.StepRunsFetchedInstruction := by
  refine fun s i hr hf => ⟨fun hb => step_of_instr hr hb ((fetch_of_busy hb).mp hf),
    fun hb hi => step_of_arbitrate hr hb hi, fun hb hi => ?port⟩
  case port =>
    obtain rfl := Option.some.inj ((fetch_port hb hi).symm.trans hf)
    exact ⟨rfl, step_of_no_request hr hb hi⟩

/-! ### Acceptance -/

/-- An accepted SETUP (R171, R172). -/
theorem exec_setup_accepted {s : State} (hb : s.seq.busy = false) (hr : s.env.inputs.rst ≠ .high)
    (hst : s.seq.stage = .uninitialized) (hasReset hasBusy : Bool) (n : BitVec 32) :
    exec (.setup hasReset hasBusy n) s = .next (raiseAck .setup (startSetup hasReset hasBusy n s)) :=
  if_pos (accepts_true.mpr ⟨hb, hr, legalIn_setup.mpr hst⟩)

/-- An accepted UPDATE (R181). -/
theorem exec_update_accepted {s : State} (hb : s.seq.busy = false) (hr : s.env.inputs.rst ≠ .high)
    (hst : s.seq.stage = .idle) : exec .update s = .next (raiseAck .update (startUpdate s)) :=
  if_pos (accepts_true.mpr ⟨hb, hr, legalIn_update.mpr hst⟩)

/-- An accepted SLEEP (R190). -/
theorem exec_sleep_accepted {s : State} (hb : s.seq.busy = false) (hr : s.env.inputs.rst ≠ .high)
    (hst : s.seq.stage = .idle) : exec .sleep s = .next (raiseAck .sleep (startSleep s)) :=
  if_pos (accepts_true.mpr ⟨hb, hr, legalIn_sleep.mpr hst⟩)

/-- Settles O10: SU0's FILL leaves the filled buffer. -/
theorem setupAccepted : Obligations.SetupAccepted := fun _ hasReset hasBusy n hb hr hst =>
  ⟨_, exec_setup_accepted hb hr hst hasReset hasBusy n, rfl, memRead_memFilled, rfl, rfl, rfl⟩

/-- Settles O11: the count is a 32-bit register. -/
theorem updateAccepted : Obligations.UpdateAccepted := fun s hb hr hst =>
  ⟨_, exec_update_accepted hb hr hst, BitVec.toNat_add s.ctl.updateCount 1#32, rfl⟩

/-- Settles O12. -/
theorem sleepAccepted : Obligations.SleepAccepted := fun _ hb hr hst => exec_sleep_accepted hb hr hst

/-! ### The reset pulse -/

theorem exec_resetPulse (s : State) : exec .resetPulse s = .next (afterPulse s) := by
  rw [exec, execResetPulse, runMicros_resetPulse]

/-- Settles O30: three levels and three delays, at one label. -/
theorem resetPulseShape : Obligations.ResetPulseShape := by
  refine ⟨fun l => ?_, fun s => ⟨_, exec_resetPulse s, rfl, rfl, rfl⟩⟩
  cases l <;> simp [labelAction]

end Sys2Proof.Machine
end

section
/-! PROOFS, family 42_state_machine: the moves of STATE (R192), and Sleeping, which is left by block reset alone (R191,
R294). -/

namespace Sys2Proof.Machine

/-- The moves of STATE the actions of a sequence make (R192): none within a stage, and one at the end of each. -/
theorem stage_seqAfter (hr : Bool) {q : Seq} (hl : q.label ≠ .none) (hst : q.stage = labelStage q.label) :
    (seqAfter hr q).stage = q.stage ∨
    (q.stage = .uninitialized ∧ (seqAfter hr q).stage = .resetting ∧ hr = true ∧ q.label = .su0) ∨
    (q.stage = .uninitialized ∧ (seqAfter hr q).stage = .initializing ∧ hr = false ∧ q.label = .su0) ∨
    (q.stage = .resetting ∧ (seqAfter hr q).stage = .initializing ∧ (q.label = .rs1 ∨ q.label = .rs6)) ∨
    (q.stage = .initializing ∧ (seqAfter hr q).stage = .idle ∧ q.label = .in14) ∨
    (q.stage = .drawing ∧ (seqAfter hr q).stage = .refreshing ∧ (q.label = .dr6 ∨ q.label = .dr7)) ∨
    (q.stage = .refreshing ∧ (seqAfter hr q).stage = .idle ∧ q.label = .rf2) := by
  obtain ⟨st, l, b⟩ := q
  obtain rfl : st = labelStage l := hst
  cases l
  case none => exact absurd rfl hl
  case su0 => cases hr <;> simp [seqAfter, afterSu0, labelStage]
  case rs1 | rs6 | in14 | dr6 | dr7 | rf2 => simp [seqAfter, seqIdle, labelStage]
  all_goals exact .inl rfl

/-- Settles O41: a case a kind of step; the moves of a step of a sequence are those of its action. -/
theorem stageTransitions : Obligations.StageTransitions := by
  intro s t hs h
  cases stepsTo_of_step h with
  | reset u hr => exact .inl ⟨by simp [Seq.atReset], hr⟩
  | pixel | port => exact .inr (.inl (by simp))
  | update _ hst | sleep _ hst => simp [hst]
  | setup _ hst => cases s.env.inputs.request.cfgHasReset <;> simp [hst, afterSu0]
  | action act hr hb ha =>
    obtain ⟨hl, hq⟩ := hs.seq_eq hb
    have hmove := stage_seqAfter s.ctl.hasReset hl (congrArg Seq.stage hq)
    simp only [endStep_seq, advanceSeq_seq, runMicros_seq, runMicros_hasReset, clearPulses_seq, clearPulses_ctl,
      endStep_ctl, advanceSeq_ctl]
    generalize seqAfter s.ctl.hasReset s.seq = q at hmove ⊢
    rcases hmove with h | ⟨hst, h, hc, hl⟩ | ⟨hst, h, hc, hl⟩ | ⟨hst, h, hl⟩ | ⟨hst, h, hl⟩ |
      ⟨hst, h, hl⟩ | ⟨hst, h, hl⟩
    · exact .inr (.inl h)
    · simp [hst, h, hc, hl]
    · simp [hst, h, hc, hl]
    all_goals simp [hst, h, hl]

/-! ### Sleeping -/

@[simp] theorem runMicros_updateAck (ms : List Micro) (s : State) :
    (runMicros ms s).pins.updateAck = s.pins.updateAck := by
  induction ms generalizing s with
  | nil => rfl
  | cons m ms ih => exact (ih _).trans (by cases m <;> rfl)

@[simp] theorem runMicros_sleepAck (ms : List Micro) (s : State) :
    (runMicros ms s).pins.sleepAck = s.pins.sleepAck := by
  induction ms generalizing s with
  | nil => rfl
  | cons m ms ih => exact (ih _).trans (by cases m <;> rfl)

/-- Where the position agrees, a sequence in progress has a step to run. -/
theorem SeqAgrees.label_ne_none {s : State} (h : SeqAgrees s) (hb : s.seq.busy = true) : s.seq.label ≠ .none :=
  (h.seq_eq hb).1

/-- Every action of Sleeping ends the sequence (R190). -/
theorem seqAfter_sleeping (hr : Bool) {l : Label} (h : labelStage l = .sleeping) :
    seqAfter hr ⟨labelStage l, l, true⟩ = seqAsleep := by
  cases l <;> simp only [labelStage, reduceCtorEq] at h <;> rfl

/-- Settles O42: of the requests Sleeping accepts SET_PIXEL alone, and its actions end asleep. -/
theorem sleepingIsTerminal : Obligations.SleepingIsTerminal := by
  intro s hs hst hr
  obtain ⟨t, ht, -⟩ := step_low hr hs.label_ne_none
  refine ⟨t, ht, ?_⟩
  cases stepsTo_of_step ht with
  | reset _ hr' => exact absurd hr hr'
  | update _ hst' | sleep _ hst' | setup _ hst' => rw [hst] at hst'; cases hst'
  | pixel hb | port hb => simp [hst, hb]
  | action act _ hb ha =>
    obtain ⟨-, hq⟩ := hs.seq_eq hb
    have hasleep : seqAfter s.ctl.hasReset s.seq = seqAsleep := by
      rw [hq, seqAfter_sleeping _ ((congrArg Seq.stage hq).symm.trans hst)]
    simp [hasleep, seqAsleep, hb]

end Sys2Proof.Machine
end

section
/-! PROOFS, family 42_state_machine: runs of whole sequences (R170 to R191). A stretch of a sequence that sends frames and
waits is described by what it sends and where it waits, and stretches are put together step by step. -/

namespace Sys2Proof.Machine

/-! ### What the end of a step leaves -/

@[simp] theorem readPort_epoch (a : FbAddr) (s : State) : (readPort a s).draws.epoch = s.draws.epoch := by
  rw [readPort_frame]

@[simp] theorem readPort_sampleIx (a : FbAddr) (s : State) : (readPort a s).draws.sampleIx = s.draws.sampleIx := by
  rw [readPort_frame]

@[simp] theorem endStep_epoch (n : Nat) (s : State) : (endStep n s).draws.epoch = s.draws.epoch := by simp [endStep]

@[simp] theorem endStep_sampleIx (n : Nat) (s : State) : (endStep n s).draws.sampleIx = s.draws.sampleIx := by
  simp [endStep]

/-- Whether `rst` stays low is read from the inputs alone. -/
theorem NoReset.congr {s t : State} (h : NoReset s) (hi : t.env.inputs = s.env.inputs)
    (hsc : t.env.script = s.env.script) : NoReset t := by
  rwa [NoReset, hi, hsc]

theorem NoReset.rst {s : State} (h : NoReset s) : s.env.inputs.rst = .low := h.1

theorem NoReset.nextInputs {s : State} (h : NoReset s) : NoReset (nextInputs s) := by
  cases hsc : s.env.script with
  | nil => rwa [nextInputs_empty s hsc]
  | cons i rest =>
    obtain ⟨-, hscript⟩ := h
    rw [hsc, List.forall_mem_cons] at hscript
    rw [nextInputs_cons s hsc]
    exact hscript

theorem NoReset.endStep {s : State} (h : NoReset s) (n : Nat) : NoReset (endStep n s) :=
  NoReset.nextInputs (h.congr (by simp) (by simp))

/-- Where `rst` stays low, it stays low after any step. -/
theorem NoReset.step {s t : State} (h : NoReset s) (hstep : step s = .next t) : NoReset t := by
  cases stepsTo_of_step hstep with
  | reset _ hr => exact absurd h.rst hr
  | action | pixel | update | sleep | setup | port => exact NoReset.endStep (h.congr (by simp) (by simp)) _

/-! ### Stretches that send and wait -/

/-- Between `s` and `t` the bus events `es` are sent and waits are made at the sites `ws`: no level of the reset line is
driven, FB and the configuration stand, only timeouts at `ws` can be recorded, and only the waits take time (R222), none
without a busy line (R212). -/
structure Sends (s t : State) (es : List Event) (ws : List Site) : Prop where
  params : t.params = s.params
  fb : t.fb = s.fb
  epoch : t.draws.epoch = s.draws.epoch
  hasBusy : t.ctl.hasBusy = s.ctl.hasBusy
  timeoutSeen : ∀ w, (∀ v ∈ ws, v.toNat ≠ w) → t.ctl.timeoutSeen.getLsbD w = s.ctl.timeoutSeen.getLsbD w
  trace : ∃ new, t.trace = s.trace ++ new ∧ busEvents new = es ∧ ∀ e ∈ new, isRstEvent e.event = false
  le_time : s.time ≤ t.time
  time_le : t.time ≤ s.time + 20100 * ws.length
  time_eq : s.ctl.hasBusy = false → t.time = s.time

theorem busEvents_append (tr tr' : List Stamped) : busEvents (tr ++ tr') = busEvents tr ++ busEvents tr' := by
  simp [busEvents]

namespace Sends

variable {s t u : State} {es es' : List Event} {ws ws' : List Site}

/-- Nothing that `Sends` looks at has changed. -/
theorem of_eq (hp : t.params = s.params) (hfb : t.fb = s.fb) (he : t.draws.epoch = s.draws.epoch)
    (hb : t.ctl.hasBusy = s.ctl.hasBusy) (hto : t.ctl.timeoutSeen = s.ctl.timeoutSeen) (htr : t.trace = s.trace)
    (hti : t.time = s.time) : Sends s t [] [] :=
  ⟨hp, hfb, he, hb, fun _ _ => by rw [hto], ⟨[], by simp [htr], rfl, by simp⟩, hti.ge, hti.le, fun _ => hti⟩

/-- One stretch after another. -/
theorem trans (h : Sends s t es ws) (h' : Sends t u es' ws') : Sends s u (es ++ es') (ws ++ ws') where
  params := h'.params.trans h.params
  fb := h'.fb.trans h.fb
  epoch := h'.epoch.trans h.epoch
  hasBusy := h'.hasBusy.trans h.hasBusy
  timeoutSeen w hw := by
    rw [List.forall_mem_append] at hw
    exact (h'.timeoutSeen w hw.2).trans (h.timeoutSeen w hw.1)
  trace := by
    obtain ⟨new, htr, hes, hrst⟩ := h.trace
    obtain ⟨new', htr', hes', hrst'⟩ := h'.trace
    exact ⟨new ++ new', by rw [htr', htr, List.append_assoc], by rw [busEvents_append, hes, hes'],
      List.forall_mem_append.mpr ⟨hrst, hrst'⟩⟩
  le_time := h.le_time.trans h'.le_time
  time_le := by
    have := h.time_le
    have := h'.time_le
    rw [List.length_append]
    omega
  time_eq hb := (h'.time_eq (h.hasBusy.trans hb)).trans (h.time_eq hb)

/-- A step does around its action nothing that `Sends` looks at. -/
theorem endStep (h : Sends (clearPulses s) t es ws) (n : Nat) : Sends s (endStep n (advanceSeq t)) es ws := by
  have hbefore : Sends s (clearPulses s) [] [] := of_eq rfl rfl rfl rfl rfl rfl rfl
  have hafter : Sends t (Machine.endStep n (advanceSeq t)) [] [] := by apply of_eq <;> simp
  simpa using (hbefore.trans h).trans hafter

theorem trace_prefix (h : Sends s t es ws) : s.trace <+: t.trace := by
  obtain ⟨new, htr, -⟩ := h.trace
  exact htr ▸ List.prefix_append _ _

theorem busEvents_emittedSince (h : Sends s t es ws) : busEvents (emittedSince s t) = es := by
  obtain ⟨new, htr, hes, -⟩ := h.trace
  rw [emittedSince, htr, List.drop_left, hes]

theorem framePayload (h : Sends s t es ws) : framePayload t = framePayload s := framePayload_congr h.fb h.epoch

/-- Bus events at one model time, and nothing else but latches and counters. -/
theorem of_bus (hp : t.params = s.params) (hfb : t.fb = s.fb) (he : t.draws.epoch = s.draws.epoch) (hc : t.ctl = s.ctl)
    (hti : t.time = s.time) (htr : t.trace = s.trace ++ stampAll s.time es) (hes : ∀ e ∈ es, isBusEvent e = true) :
    Sends s t es [] := by
  refine ⟨hp, hfb, he, by rw [hc], fun _ _ => by rw [hc], ⟨_, htr, ?bus, ?rst⟩, hti.ge, hti.le, fun _ => hti⟩
  case bus => rw [busEvents, map_event_stampAll, List.filter_eq_self.mpr hes]
  case rst =>
    refine List.forall_mem_map.mpr fun e he => ?_
    have := hes e he
    cases e with
    | rst => cases this
    | _ => rfl

end Sends

/-! ### What an instruction of a sequence sends -/

theorem isBusEvent_cmdFrame (op : Byte) : ∀ e ∈ cmdFrame op, isBusEvent e = true := by simp [cmdFrame, isBusEvent]

theorem isBusEvent_dataFrame (b : Byte) : ∀ e ∈ dataFrame b, isBusEvent e = true := by simp [dataFrame, isBusEvent]

theorem isBusEvent_blockFrame (bs : List Byte) : ∀ e ∈ blockFrame bs, isBusEvent e = true := by
  simp [blockFrame, isBusEvent, or_imp, forall_and]

/-- On a board with parameters `p` and `payload` in FB, the sequencer's instruction `i` sends `es` and waits at `ws`. -/
def Performs (p : Params) (payload : List Byte) (i : Instr) (es : List Event) (ws : List Site) : Prop :=
  ∀ s, s.params = p → framePayload s = payload → Sends s (runMicros (microsOf i s) s) es ws

section
variable {p : Params} {payload : List Byte}

/-- Another site's bit is not the one a timeout sets (R216). -/
theorem getLsbD_timeoutSeen_other (b : BitVec 4) {v : Site} {w : Nat} (h : v.toNat ≠ w) :
    (b ||| (1#4 <<< v.toNat)).getLsbD w = b.getLsbD w := by
  rw [← BitVec.twoPow_eq, BitVec.getLsbD_or, BitVec.getLsbD_twoPow, decide_eq_false h, Bool.and_false, Bool.or_false]

/-- WAIT_IDLE sends nothing, and takes 20100 ms at most whichever of its three ways it goes (R222). -/
theorem performs_wait (w : Site) : Performs p payload (.waitIdle w) [] [w] := by
  intro s _ _
  change Sends s (runMicros (waitMicros w s) s) [] [w]
  rcases waitMicros_cases w s with ⟨-, h⟩ | ⟨hb, k, hk, -, -, h⟩ | ⟨hb, -, h⟩ <;> rw [h]
  · exact ⟨rfl, rfl, rfl, rfl, fun _ _ => rfl, ⟨[], by simp, rfl, by simp⟩, le_rfl, by simp, fun _ => rfl⟩
  · refine ⟨rfl, rfl, rfl, rfl, fun _ _ => rfl, ⟨[], ?_, rfl, by simp⟩, ?_, ?bound, fun hb' => by simp [hb] at hb'⟩
    case bound =>
      simp only [afterWaitOk, List.length_singleton]
      omega
    all_goals simp [afterWaitOk]
  · refine ⟨rfl, rfl, rfl, rfl, fun v hv => ?site, ⟨_, rfl, rfl, by simp [isRstEvent]⟩, ?_, ?_,
      fun hb' => by simp [hb] at hb'⟩
    case site => exact getLsbD_timeoutSeen_other _ (hv w (List.mem_singleton_self w))
    all_goals simp [afterWaitTimeout]

/-- A panel command sends its command frame and a data frame a byte (R102). -/
theorem performs_command {i : Instr} {op : Byte} (data : List Byte)
    (h : ∀ s : State, s.params = p → microsOf i s = paramCmdMicros op data) :
    Performs p payload i (cmdFrame op ++ data.flatMap dataFrame) [] := by
  intro s hp _
  have hes : ∀ e ∈ cmdFrame op ++ data.flatMap dataFrame, isBusEvent e = true :=
    List.forall_mem_append.mpr ⟨isBusEvent_cmdFrame op, List.forall_mem_flatMap.mpr fun b _ => isBusEvent_dataFrame b⟩
  rw [h s hp]
  rcases List.eq_nil_or_concat data with rfl | ⟨bs, b, rfl⟩
  · rw [runMicros_paramCmd_nil]
    exact .of_bus rfl rfl rfl rfl rfl (by simp [afterBus]) hes
  · rw [List.concat_eq_append] at hes ⊢
    rw [runMicros_paramCmd]
    exact .of_bus rfl rfl rfl rfl rfl rfl hes

/-- WRITE_RAM sends its command frame and the payload (R151). -/
theorem performs_writeRam : Performs p payload .writeRam (cmdFrame p.opWriteRam ++ blockFrame payload) [] := by
  rintro s rfl rfl
  have h := Host.Outcome.next.inj (exec_writeRam s)
  change Sends s (runMicros (writeRamMicros s.params) s) _ []
  rw [h]
  exact .of_bus rfl rfl rfl rfl rfl rfl
    (List.forall_mem_append.mpr ⟨isBusEvent_cmdFrame _, isBusEvent_blockFrame _⟩)

/-! ### Runs of a sequence -/

/-- From position `q`, with `rst` low, `k` steps lead to position `q'`, send `es` and wait at `ws`; the counts stand. -/
def RunsTo (p : Params) (payload : List Byte) (q : Seq) (k : Nat) (es : List Event) (ws : List Site)
    (q' : Seq) : Prop :=
  ∀ s, s.seq = q → NoReset s → s.params = p → framePayload s = payload →
    ∃ t, runSteps k s = .next t ∧ t.seq = q' ∧ NoReset t ∧ t.ctl.updateCount = s.ctl.updateCount ∧
      t.ctl.fullUpdateEvery = s.ctl.fullUpdateEvery ∧ Sends s t es ws

theorem RunsTo.nil (q : Seq) : RunsTo p payload q 0 [] [] q := fun s hq hn _ _ =>
  ⟨s, runSteps_zero s, hq, hn, rfl, rfl, .of_eq rfl rfl rfl rfl rfl rfl rfl⟩

/-- The instruction at the position, then the rest. -/
theorem RunsTo.cons {q q₁ q' : Seq} {i : Instr} {k : Nat} {es es' : List Event} {ws ws' : List Site}
    (hb : q.busy = true) (ha : labelAction q.label = some (.instr i)) (hq₁ : ∀ hr, seqAfter hr q = q₁)
    (hi : Performs p payload i es ws) (hrest : RunsTo p payload q₁ k es' ws' q') :
    RunsTo p payload q (k + 1) (es ++ es') (ws ++ ws') q' := by
  rintro s rfl hn hp hpl
  have hstep := step_of_labelAction hn.rst hb ha
  have hsends := (hi (clearPulses s) hp hpl).endStep s.params.syncStages
  obtain ⟨t, ht, htq, htn, hcount, hevery, hsends'⟩ :=
    hrest _ (by simp [hq₁]) (hn.step hstep) (hsends.params.trans hp) (hsends.framePayload.trans hpl)
  exact ⟨t, (runSteps_succ hstep).trans ht, htq, htn, by simpa using hcount, by simpa using hevery,
    hsends.trans hsends'⟩

/-- INIT (R174): seven instructions, three of them waits. -/
theorem runsTo_init : RunsTo p payload ⟨.initializing, .in1, true⟩ 7 initFrames [0#2, 1#2, 2#2] seqIdle := by
  have h : RunsTo p payload ⟨.initializing, .in1, true⟩ 7 _ _ seqIdle :=
    .cons rfl rfl (fun _ => rfl) (performs_wait 0#2) <|
    .cons rfl rfl (fun _ => rfl) (performs_command (i := .swreset) [] fun _ _ => rfl) <|
    .cons rfl rfl (fun _ => rfl) (performs_wait 1#2) <|
    .cons rfl rfl (fun _ => rfl) (performs_command (i := .dataEntryMode) [0x03#8] fun _ _ => rfl) <|
    .cons rfl rfl (fun _ => rfl) (performs_command (i := .setXRange) [0x01#8, 0x13#8] fun _ _ => rfl) <|
    .cons rfl rfl (fun _ => rfl) (performs_command (i := .setYRange) [0x00#8, 0x00#8, 0x28#8, 0x01#8] fun _ _ => rfl) <|
    .cons rfl rfl (fun _ => rfl) (performs_wait 2#2) <|
    .nil _
  exact h

/-- The steps of an UPDATE after its acceptance (R182 to R185): the counters, the frame, ACTIVATE, one wait. -/
theorem runsTo_update : RunsTo p payload ⟨.drawing, .dr1, true⟩ 5 (updateFrames p payload) [3#2] seqIdle := by
  have h : RunsTo p payload ⟨.drawing, .dr1, true⟩ 5 _ _ seqIdle :=
    .cons rfl rfl (fun _ => rfl) (performs_command (i := .setXCounter) (op := p.opSetXCounter) [0x01#8]
      fun _ h => h ▸ rfl) <|
    .cons rfl rfl (fun _ => rfl) (performs_command (i := .setYCounter) (op := p.opSetYCounter) [0x27#8, 0x01#8]
      fun _ h => h ▸ rfl) <|
    .cons rfl rfl (fun _ => rfl) performs_writeRam <|
    .cons rfl rfl (fun _ => rfl) (performs_command (i := .activate) (op := p.opActivate) [] fun _ h => h ▸ rfl) <|
    .cons rfl rfl (fun _ => rfl) (performs_wait 3#2) <|
    .nil _
  simpa [updateFrames] using h

end

/-! ### UPDATE and SLEEP -/

theorem FreeFor.seq {stage : Stage} {s : State} (h : FreeFor stage s) : s.seq = ⟨stage, .none, false⟩ := h.1

/-- An UPDATE asked for in Idle, with no pixel write asked for, is the request accepted (R235). -/
theorem arbitrate_update {s : State} (hfree : FreeFor .idle s) (hreq : s.env.inputs.request.updateReq = true)
    (hr : s.env.inputs.rst = .low) : arbitrate s = some .update := by
  obtain ⟨hq, hpx⟩ := hfree
  simp [arbitrate, selectRequest, accepts, legalIn, hq, hpx, hreq, hr]

/-- A SLEEP asked for in Idle, with neither a pixel write nor an UPDATE asked for, is the request accepted (R235). -/
theorem arbitrate_sleep {s : State} (hfree : FreeFor .idle s) (hup : s.env.inputs.request.updateReq = false)
    (hreq : s.env.inputs.request.sleepReq = true) (hr : s.env.inputs.rst = .low) : arbitrate s = some .sleep := by
  obtain ⟨hq, hpx⟩ := hfree
  simp [arbitrate, selectRequest, accepts, legalIn, hq, hpx, hup, hreq, hr]

/-- A SETUP asked for in Uninitialized is the request accepted: no other is legal there (R233, R235). -/
theorem arbitrate_setup {s : State} (hq : s.seq = ⟨.uninitialized, .none, false⟩)
    (hreq : s.env.inputs.request.setupReq = true) (hr : s.env.inputs.rst = .low) :
    arbitrate s = some (.setup s.env.inputs.request.cfgHasReset s.env.inputs.request.cfgHasBusy
      s.env.inputs.request.cfgFullUpdateEvery) := by
  simp [arbitrate, selectRequest, accepts, legalIn, hq, hreq, hr]

/-- An UPDATE from its acceptance to its end: acceptance sends nothing and counts, the five steps after it send the
frame. -/
theorem update_runs {s : State} (hfree : FreeFor .idle s) (hreq : s.env.inputs.request.updateReq = true)
    (hn : NoReset s) :
    ∃ t, runSteps 6 s = .next t ∧ t.seq = seqIdle ∧ NoReset t ∧ t.ctl.updateCount = s.ctl.updateCount + 1#32 ∧
      Sends s t (updateFrames s.params (framePayload s)) [3#2] := by
  have hr := hn.rst
  have hq := hfree.seq
  have hstep : step s = .next (endStep 1 (raiseAck .update (startUpdate (clearPulses s)))) := by
    rw [step_of_arbitrate hr (by rw [hq]) (arbitrate_update hfree hreq hr),
      exec_update_accepted (by simp [hq]) (by simp [hr]) (by simp [hq])]
    rfl
  have hsends : Sends s (endStep 1 (raiseAck .update (startUpdate (clearPulses s)))) [] [] := by
    apply Sends.of_eq <;> simp
  obtain ⟨t, ht, htq, htn, hcount, -, hsends'⟩ :=
    runsTo_update _ (by simp) (hn.step hstep) hsends.params hsends.framePayload
  exact ⟨t, (runSteps_succ hstep).trans ht, htq, htn, by simpa using hcount, hsends.trans hsends'⟩

/-- Settles O51: the counters, the frame and ACTIVATE are what the steps send, W3 the one site they wait at. -/
theorem updateRunsToIdle : Obligations.UpdateRunsToIdle := by
  intro s hfree hreq hn
  obtain ⟨t, ht, htq, -, hcount, hsends⟩ := update_runs hfree hreq hn
  exact ⟨t, ht, htq, hsends.fb, hcount, hsends.trace_prefix, hsends.busEvents_emittedSince,
    fun w hw => hsends.timeoutSeen w (by simpa using by omega), hsends.le_time, hsends.time_le, hsends.time_eq⟩

/-- Settles O52: the second UPDATE sends the payload of the FB the first one left, which is the same. -/
theorem updateIsIdempotent : Obligations.UpdateIsIdempotent := by
  intro s t u hfree hreq hn ht hpx hreq' hu
  obtain ⟨t', ht', htq, htn, -, hst⟩ := update_runs hfree hreq hn
  obtain rfl := Host.Outcome.next.inj (ht'.symm.trans ht)
  obtain ⟨u', hu', huq, -, -, htu⟩ := update_runs ⟨htq, hpx⟩ hreq' htn
  obtain rfl := Host.Outcome.next.inj (hu'.symm.trans hu)
  refine ⟨huq, htu.fb.trans hst.fb, ?_⟩
  rw [htu.busEvents_emittedSince, hst.busEvents_emittedSince, hst.params, hst.framePayload]

/-- Settles O53: the acceptance, then DEEP_SLEEP, which ends the sequence. -/
theorem sleepRunsToSleeping : Obligations.SleepRunsToSleeping := by
  intro s hfree hup hreq hn
  have hr := hn.rst
  have hq := hfree.seq
  have hstep : step s = .next (endStep 1 (raiseAck .sleep (startSleep (clearPulses s)))) := by
    rw [step_of_arbitrate hr (by rw [hq]) (arbitrate_sleep hfree hup hreq hr),
      exec_sleep_accepted (by simp [hq]) (by simp [hr]) (by simp [hq])]
    rfl
  have hstep' := step_of_labelAction (hn.step hstep).rst (act := .instr .deepSleep) (by simp) (by simp [labelAction])
  have hmicros (u : State) : runMicros (actionMicros (.instr .deepSleep) u) u =
      afterBus .data 0x01#8 (cmdFrame u.params.opDeepSleep ++ dataFrame 0x01#8) u :=
    runMicros_paramCmd u.params.opDeepSleep [] 0x01#8 u
  rw [hmicros] at hstep'
  refine ⟨_, (runSteps_succ hstep).trans (runSteps_succ hstep'), ?_⟩
  simp [afterBus, seqAfter, seqAsleep]

/-! ### SETUP -/

/-- The levels the reset pulse drives, if there is a reset line, from time `t` on (R173). -/
def resetEvents (hasReset : Bool) (t : Nat) : List Stamped :=
  if hasReset then [⟨t, .rst true⟩, ⟨t + 200, .rst false⟩, ⟨t + 202, .rst true⟩] else []

/-- The time the reset pulse takes, if there is a reset line (R173). -/
def resetMs (hasReset : Bool) : Nat := if hasReset then 402 else 0

/-- The state where INIT begins, after SETUP's acceptance and the reset pulse (R171 to R173). -/
structure InitBegins (s u : State) : Prop where
  seq : u.seq = ⟨.initializing, .in1, true⟩
  noReset : NoReset u
  fb : u.fb = memFilled
  updateCount : u.ctl.updateCount = 0#32
  fullUpdateEvery : u.ctl.fullUpdateEvery = s.env.inputs.request.cfgFullUpdateEvery
  hasBusy : u.ctl.hasBusy = s.env.inputs.request.cfgHasBusy
  timeoutSeen : u.ctl.timeoutSeen = s.ctl.timeoutSeen
  trace : u.trace = s.trace ++ resetEvents s.env.inputs.request.cfgHasReset s.time
  time : u.time = s.time + resetMs s.env.inputs.request.cfgHasReset

/-- The step that accepts SETUP. -/
theorem step_of_setup {s : State} (hq : s.seq = ⟨.uninitialized, .none, false⟩)
    (hreq : s.env.inputs.request.setupReq = true) (hr : s.env.inputs.rst = .low) :
    step s = .next (endStep s.params.syncStages (raiseAck .setup (startSetup s.env.inputs.request.cfgHasReset
      s.env.inputs.request.cfgHasBusy s.env.inputs.request.cfgFullUpdateEvery (clearPulses s)))) := by
  rw [step_of_arbitrate hr (by rw [hq]) (arbitrate_setup hq hreq hr),
    exec_setup_accepted (by simp [hq]) (by simp [hr]) (by simp [hq])]
  rfl

/-- The step that runs the reset pulse. -/
theorem step_of_rs1 {s : State} (hq : s.seq = ⟨.resetting, .rs1, true⟩) (hr : s.env.inputs.rst = .low) :
    step s = .next (endStep s.params.syncStages (advanceSeq (afterPulse (clearPulses s)))) := by
  have h := step_of_labelAction hr (act := .instr .resetPulse) (by rw [hq]) (by rw [hq]; rfl)
  rwa [actionMicros, microsOf, runMicros_resetPulse] at h

/-- SETUP's first step leads to INIT without a reset line, its first two with one. -/
theorem initBegins_of_setup {s : State} (hq : s.seq = ⟨.uninitialized, .none, false⟩)
    (hreq : s.env.inputs.request.setupReq = true) (hn : NoReset s) :
    ∃ u, InitBegins s u ∧
      ∀ k, runSteps (k + if s.env.inputs.request.cfgHasReset then 2 else 1) s = runSteps k u := by
  have hstep := step_of_setup hq hreq hn.rst
  have hn' := hn.step hstep
  cases hhr : s.env.inputs.request.cfgHasReset <;> rw [hhr] at hstep hn'
  case false =>
    refine ⟨_, ?_, fun k => runSteps_succ hstep⟩
    constructor
    case noReset => exact hn'
    all_goals simp [afterSu0, resetEvents, resetMs, hhr]
  case true =>
    have hpulse := step_of_rs1 (by simp [afterSu0]) hn'.rst
    refine ⟨_, ?_, fun k => (runSteps_succ hstep).trans (runSteps_succ hpulse)⟩
    constructor
    case noReset => exact hn'.step hpulse
    all_goals simp [afterSu0, resetEvents, resetMs, hhr, afterPulse, seqAfter]

/-- The reset pulse is no traffic on the bus. -/
theorem busEvents_resetEvents (hasReset : Bool) (t : Nat) : busEvents (resetEvents hasReset t) = [] := by
  cases hasReset <;> rfl

theorem filter_rst_resetEvents (hasReset : Bool) (t : Nat) :
    (resetEvents hasReset t).filter (fun e => isRstEvent e.event) = resetEvents hasReset t := by
  cases hasReset <;> rfl

/-- Settles O50: the acceptance, the reset pulse if there is a line, and INIT, which sends the eleven frames and waits at W0,
W1 and W2. -/
theorem setupRunsToIdle : Obligations.SetupRunsToIdle := by
  intro s hq hreq hn
  obtain ⟨u, hu, hrun⟩ := initBegins_of_setup hq hreq hn
  obtain ⟨t, ht, htq, -, hcount, hevery, hsends⟩ := runsTo_init u hu.seq hu.noReset rfl rfl
  obtain ⟨new, htr, hes, hrst⟩ := hsends.trace
  rw [hu.trace, List.append_assoc] at htr
  have hnew : emittedSince s t = resetEvents s.env.inputs.request.cfgHasReset s.time ++ new := by
    rw [emittedSince, htr, List.drop_left]
  have hsteps : (if s.env.inputs.request.cfgHasReset then 9 else 8) =
      7 + if s.env.inputs.request.cfgHasReset then 2 else 1 := by split <;> rfl
  have hpulse : resetMs s.env.inputs.request.cfgHasReset ≤ 402 := by unfold resetMs; split <;> decide
  have hle := hsends.le_time
  have hti := hsends.time_le
  rw [hu.time] at hle hti
  refine ⟨t, by rw [hsteps, hrun, ht], htq, fun a => ?fb, hcount.trans hu.updateCount, hevery.trans hu.fullUpdateEvery,
    htr ▸ List.prefix_append _ _, ?bus, ?rst, rfl, ?timeouts, hle, hti.trans ?bound, fun hb => ?exact⟩
  case fb => rw [hsends.fb, hu.fb]; exact memRead_memFilled a
  case bus => rw [hnew, busEvents_append, busEvents_resetEvents, hes, List.nil_append]
  case rst =>
    have hnone : new.filter (fun e => isRstEvent e.event) = [] := by simpa using hrst
    rw [hnew, List.filter_append, filter_rst_resetEvents, hnone, List.append_nil]
    rfl
  case timeouts => rw [hsends.timeoutSeen 3 (by decide), hu.timeoutSeen]
  case bound => simp only [List.length_cons, List.length_nil]; omega
  case exact => rw [hsends.time_eq (hu.hasBusy.trans hb), hu.time]; rfl

end Sys2Proof.Machine
end

section
/-! PROOFS, family 43_busy_wait: DELAY, and the three ways of a wait (R212, R213, R216, R217, R222). -/

namespace Sys2Proof.Machine

/-! ### DELAY -/

/-- Settles O29. -/
theorem delayPassesTime : Obligations.DelayPassesTime :=
  fun s n => ⟨_, congrArg Host.Outcome.next (runMicros_delay n s), rfl, rfl, rfl⟩

/-! ### The three ways of a wait (R217) -/

theorem exec_waitIdle_noBusy {s : State} (w : Site) (h : s.ctl.hasBusy = false) :
    exec (.waitIdle w) s = .next { s with ctl.waitOk := true } :=
  congrArg Host.Outcome.next (waitMicros_noBusy w h)

theorem exec_waitIdle_ok {s : State} (w : Site) {k : Nat} (h : s.ctl.hasBusy = true) (hk : k ≤ 200)
    (hb : ∀ j < k, busyLine s j = true) (hi : busyLine s k = false) :
    exec (.waitIdle w) s = .next (afterWaitOk k s) :=
  congrArg Host.Outcome.next (waitMicros_ok w h hk hb hi)

theorem exec_waitIdle_timeout {s : State} (w : Site) (h : s.ctl.hasBusy = true)
    (hb : ∀ j ≤ 200, busyLine s j = true) : exec (.waitIdle w) s = .next (afterWaitTimeout w s) :=
  congrArg Host.Outcome.next (waitMicros_timeout w h hb)

/-- ELAPSED holds the 100 ms of each of up to 200 polls without a wrap (R38). -/
theorem afterWaitOk_elapsed (s : State) {k : Nat} (hk : k ≤ 200) : (afterWaitOk k s).dp.elapsed.toNat = 100 * k := by
  simp only [afterWaitOk, BitVec.toNat_ofNat]
  omega

/-- A timeout sets its own site's bit (R216). -/
theorem getLsbD_timeoutSeen_same (b : BitVec 4) (w : Site) : (b ||| (1#4 <<< w.toNat)).getLsbD w.toNat = true := by
  have hw : w.toNat < 4 := w.isLt
  rw [← BitVec.twoPow_eq, BitVec.getLsbD_or, BitVec.getLsbD_twoPow, decide_eq_true hw, decide_eq_true rfl, Bool.and_true,
    Bool.or_true]

/-- Settles O31. -/
theorem waitWithoutBusyLine : Obligations.WaitWithoutBusyLine := fun _ w h => exec_waitIdle_noBusy w h

/-- Settles O32. -/
theorem waitSucceeds : Obligations.WaitSucceeds := fun s w _ h hk hb hi =>
  ⟨_, exec_waitIdle_ok w h hk hb hi, rfl, rfl, rfl, rfl, afterWaitOk_elapsed s hk, rfl, rfl, rfl, rfl⟩

/-- Settles O33. -/
theorem waitTimesOut : Obligations.WaitTimesOut := fun s w h hb =>
  ⟨_, exec_waitIdle_timeout w h hb, rfl, getLsbD_timeoutSeen_same s.ctl.timeoutSeen w, rfl, rfl, rfl, rfl, rfl, rfl, rfl,
    rfl⟩

/-- Settles O34: at most 200 polls and the settle delay, or the 20000 ms of a timeout. -/
theorem waitIsBounded : Obligations.WaitIsBounded := by
  intro s w
  refine ⟨_, rfl, ?_⟩
  rcases waitMicros_cases w s with ⟨-, h⟩ | ⟨-, k, hk, -, -, h⟩ | ⟨-, -, h⟩ <;> rw [h]
  · exact ⟨rfl, le_rfl, by simp, le_rfl, by simp, .inl ⟨rfl, rfl⟩⟩
  · have htime : (afterWaitOk k s).time = s.time + (100 * k + 100) := rfl
    have hsamples : (afterWaitOk k s).draws.sampleIx = s.draws.sampleIx + (k + 1) := rfl
    exact ⟨rfl, by omega, by omega, by omega, by omega, .inl ⟨rfl, rfl⟩⟩
  · have htime : (afterWaitTimeout w s).time = s.time + 20000 := rfl
    have hsamples : (afterWaitTimeout w s).draws.sampleIx = s.draws.sampleIx + 201 := rfl
    exact ⟨rfl, by omega, by omega, by omega, by omega, .inr ⟨s.time + 20000, rfl⟩⟩

end Sys2Proof.Machine
end

section
/-! PROOFS, family 44_host_interface: which requests are accepted (R231, R233, R235), that one not accepted has no effect
(R234), and that none is accepted while a sequence runs (R231, R291). -/

namespace Sys2Proof.Machine

/-! ### Requests that are not accepted -/

/-- Why the block does not accept a request (R231, R233). -/
theorem not_accepts {s : State} {op : HostOp} :
    ¬accepts s op = true ↔ s.seq.busy = true ∨ s.env.inputs.rst = .high ∨ ¬legalIn s.seq.stage op = true := by
  rw [accepts_true, not_and_or, not_and_or, Bool.not_eq_false, not_not]

/-- Settles O13: the reasons are those of R231 and, by the legality table, of R233; each of the four operations then takes
the branch that leaves the state. -/
theorem requestNotAccepted : Obligations.RequestNotAccepted := by
  refine fun s => ⟨fun x y on h => if_neg (not_accepts.mpr ?setPixel), fun h => if_neg (not_accepts.mpr ?update),
    fun h => if_neg (not_accepts.mpr ?sleep), fun hr hb n h => if_neg (not_accepts.mpr ?setup)⟩
  case setPixel => rwa [legalIn_setPixel, not_or]
  case update => rwa [legalIn_update]
  case sleep => rwa [legalIn_sleep]
  case setup => rwa [legalIn_setup]

/-! ### Priority -/

/-- Where no operation is legal no request is served. -/
theorem selectRequest_eq_none {legal : HostOp → Bool} (h : ∀ op, ¬legal op = true) (r : Request) :
    selectRequest legal r = none := by
  simp [selectRequest, h]

/-- The requests served in Idle, in the order of R235. -/
theorem selectRequest_idle (r : Request) :
    selectRequest (legalIn .idle) r =
      if r.pxWe then some (.setPixel r.pxX r.pxY r.pxOn)
      else if r.updateReq then some .update
      else if r.sleepReq then some .sleep
      else none := by
  simp [selectRequest, legalIn]

/-- Sleeping serves SET_PIXEL alone (R233). -/
theorem selectRequest_sleeping (r : Request) :
    selectRequest (legalIn .sleeping) r = if r.pxWe then some (.setPixel r.pxX r.pxY r.pxOn) else none := by
  simp [selectRequest, legalIn]

/-- Uninitialized serves SETUP alone (R233). -/
theorem selectRequest_uninitialized (r : Request) :
    selectRequest (legalIn .uninitialized) r =
      if r.setupReq then some (.setup r.cfgHasReset r.cfgHasBusy r.cfgFullUpdateEvery) else none := by
  simp [selectRequest, legalIn]

/-- Nothing is accepted while a sequence is in progress or `rst` is high (R231). -/
theorem arbitrate_closed {s : State} (h : s.seq.busy = true ∨ s.env.inputs.rst = .high) : arbitrate s = none :=
  selectRequest_eq_none (fun _ => not_accepts.mpr (or_assoc.mp (.inl h))) _

/-- Otherwise the stage alone says which requests are legal (R233). -/
theorem arbitrate_open {s : State} (hb : s.seq.busy = false) (hr : s.env.inputs.rst ≠ .high) :
    arbitrate s = selectRequest (legalIn s.seq.stage) s.env.inputs.request := by
  have hacc : accepts s = legalIn s.seq.stage := funext fun op => by simp [accepts, hb, hr]
  rw [arbitrate, hacc]

/-- Settles O8: with the stage's row of the legality table, the request lines are read in the order of R235. -/
theorem requestPriority : Obligations.RequestPriority := by
  refine fun s => ⟨arbitrate_closed, fun hb hr => ?_⟩
  rw [arbitrate_open hb hr]
  refine ⟨fun hst hpx => ?_, fun hst hpx hup => ?_, fun hst hpx hup hsl => ?_, fun hst hpx hup hsl => ?_,
    fun hst hpx => ?_, fun hst hpx => ?_, fun hst hsu => ?_, fun hst hsu => ?_⟩ <;> rw [hst]
  · simp [selectRequest_idle, hpx]
  · simp [selectRequest_idle, hpx, hup]
  · simp [selectRequest_idle, hpx, hup, hsl]
  · simp [selectRequest_idle, hpx, hup, hsl]
  · simp [selectRequest_sleeping, hpx]
  · simp [selectRequest_sleeping, hpx]
  · simp [selectRequest_uninitialized, hsu]
  · simp [selectRequest_uninitialized, hsu]

/-! ### A sequence in progress -/

@[simp] theorem runMicros_pxAck (ms : List Micro) (s : State) : (runMicros ms s).pins.pxAck = s.pins.pxAck := by
  induction ms generalizing s with
  | nil => rfl
  | cons m ms ih => exact (ih _).trans (by cases m <;> rfl)

/-- Settles O45: with `rst` low, a step of a sequence is the action at STEP, which raises no acknowledge and writes
neither the counts nor the configuration; FB is written by SU0's alone. -/
theorem nothingAcceptedWhileBusy : Obligations.NothingAcceptedWhileBusy := by
  intro s t hb hr h
  cases stepsTo_of_step h with
  | reset _ hr' => exact absurd hr hr'
  | pixel hb' | update hb' | sleep hb' | setup hb' | port hb' => exact absurd hb (by simp [hb'])
  | action act _ _ ha =>
    refine ⟨?setupAck, ?updateAck, ?sleepAck, ?pxAck, ?updateCount, ?fullUpdateEvery, ?hasReset, ?hasBusy, fun hl => ?fb⟩
    case fb => rw [endStep_fb, advanceSeq_fb, runMicros_action_fb ha, if_neg hl, clearPulses_fb]
    all_goals simp

end Sys2Proof.Machine
end

section
/-! PROOFS, family 60_exceptions: no event stops the block (R250). -/

namespace Sys2Proof.Machine

/-- Without a sequence the accepted request, if any, answers a next state, and so does the read port alone. -/
theorem hostStep_next (s : State) : ∃ t, hostStep s = .next t := by
  unfold hostStep
  cases arbitrate s with
  | none => exact ⟨_, rfl⟩
  | some i =>
    obtain ⟨u, hu⟩ := exec_next i s
    exact ⟨endStep (edgesOf i s.params) u, by simp [hu]⟩

/-- A cut needs no position that agrees: where a sequence has no action to cut, the block is reset all the same (R283). -/
theorem cutStep_next (k : Nat) (s : State) : ∃ t, cutStep k s = .next t := by
  unfold cutStep
  cases hb : s.seq.busy with
  | true => cases labelAction s.seq.label <;> exact ⟨_, rfl⟩
  | false => simpa [runStep, hb] using hostStep_next (clearPulses s)

/-- Settles O40: the one fault is a sequence without an action at STEP, met with `rst` low alone, and there SeqAgrees, the
invariant's first part, says that an action stands at STEP. -/
theorem noStepStops : Obligations.NoStepStops := by
  intro s ⟨hseq, _⟩
  cases hr : s.env.inputs.rst with
  | high => exact ⟨endStep 0 (blockReset s), by simp [step, hr, resetStep]⟩
  | low =>
    obtain ⟨t, ht, -⟩ := step_low hr hseq.label_ne_none
    exact ⟨t, ht⟩
  | during k => simpa [step, hr] using cutStep_next k s

end Sys2Proof.Machine
end

section
/-! PROOFS, family 70_reset_and_hazards: block reset (R280, R281, R283), and the mode line and the bytes of every
instruction (R297). -/

namespace Sys2Proof.Machine

/-! ### Block reset -/

/-- Every register has its value of the reset table on a board with parameters `p` (R42). -/
def AtReset (p : Params) (t : State) : Prop :=
  t.seq = Seq.atReset ∧ t.fb = [] ∧ t.ctl = Ctl.atReset ∧ t.pins = Pins.atReset p ∧ t.dp = Datapath.atReset ∧
    t.busySync = List.replicate p.syncStages true

/-- A step that ends in a block reset leaves the values of the table: its end clocks no register (R280). -/
theorem atReset_endStep_blockReset (u : State) : AtReset u.params (endStep 0 (blockReset u)) := by
  simp [AtReset, endStep_busySync]

/-- A step with `rst` high is a block reset, whatever the block is doing (R258 (c), R280). -/
theorem step_of_high {s : State} (hr : s.env.inputs.rst = .high) : step s = .next (endStep 0 (blockReset s)) := by
  simp [step, hr, resetStep]

/-- Settles O36: the reset values, with parameters, time and trace as before. -/
theorem blockResetStep : Obligations.BlockResetStep := by
  intro s hr
  obtain ⟨hseq, hfb, hctl, hpins, hdp, hsync⟩ := atReset_endStep_blockReset s
  exact ⟨_, step_of_high hr, hseq, hfb, hctl, hpins, hdp, hsync, by simp, by simp, by simp⟩

/-! ### A sequence cut by `rst` -/

/-- A step in which `rst` rises runs a beginning of the action at STEP, then resets the block (R283). -/
theorem step_of_during {s : State} {k : Nat} {act : SeqAction} (hr : s.env.inputs.rst = .during k)
    (hb : s.seq.busy = true) (ha : labelAction s.seq.label = some act) :
    step s =
      .next (endStep 0 (blockReset (runMicros ((actionMicros act (clearPulses s)).take k) (clearPulses s)))) := by
  simp [step, hr, cutStep, hb, ha]

theorem clearPulses_rst (r : RstIn) (s : State) :
    clearPulses { s with env.inputs.rst := r } = { clearPulses s with env.inputs.rst := r } := rfl

/-- An action's list of micro-operations does not depend on `rst`. -/
theorem actionMicros_rst (act : SeqAction) (r : RstIn) (s : State) :
    actionMicros act { s with env.inputs.rst := r } = actionMicros act s := by
  cases act with
  | instr i => cases i <;> rfl
  | drive l => rfl

/-- Nor does the effect of a list of actions, which leaves `rst` alone. -/
theorem runMicros_rst (ms : List Micro) (r : RstIn) (s : State) :
    runMicros ms { s with env.inputs.rst := r } = { runMicros ms s with env.inputs.rst := r } := by
  induction ms generalizing s with
  | nil => rfl
  | cons m ms ih =>
    have one : runMicro m { s with env.inputs.rst := r } = { runMicro m s with env.inputs.rst := r } := by
      cases m <;> rfl
    rw [runMicros_cons, one, ih, runMicros_cons]

/-- With `rst` low throughout, the step of the sequence emits what the whole action emits and takes its time: the end of the
step adds nothing. -/
theorem uncut_step {s u : State} (hb : s.seq.busy = true) (hu : step { s with env.inputs.rst := .low } = .next u) :
    ∃ act, labelAction s.seq.label = some act ∧
      u.trace = (runMicros (actionMicros act (clearPulses s)) (clearPulses s)).trace ∧
      u.time = (runMicros (actionMicros act (clearPulses s)) (clearPulses s)).time := by
  cases stepsTo_of_step hu with
  | reset _ hr' => exact absurd rfl hr'
  | pixel hb' | update hb' | sleep hb' | setup hb' | port hb' => exact absurd (hb'.symm.trans hb) Bool.false_ne_true
  | action act _ _ ha =>
    refine ⟨act, ha, ?_⟩
    rw [endStep_trace, endStep_time, advanceSeq_trace, advanceSeq_time, clearPulses_rst, actionMicros_rst,
      runMicros_rst]
    exact ⟨rfl, rfl⟩

/-- From a beginning of a list of actions the rest goes on. -/
theorem growsInOrder_take (k : Nat) (ms : List Micro) (s : State) :
    GrowsInOrder (runMicros (ms.take k) s) (runMicros ms s) := by
  have h := growsInOrder_runMicros (ms.drop k) (runMicros (ms.take k) s)
  rwa [← runMicros_append, List.take_append_drop] at h

theorem GrowsInOrder.trace_prefix {s t : State} (h : GrowsInOrder s t) : s.trace <+: t.trace := by
  obtain ⟨new, htr, -⟩ := h
  exact htr ▸ List.prefix_append _ new

theorem GrowsInOrder.time_le {s t : State} (h : GrowsInOrder s t) : s.time ≤ t.time := by
  obtain ⟨-, -, hti, -⟩ := h
  exact hti

/-- Settles O37: the uncut step runs the whole of the action of which the cut one runs a beginning; the reset that ends
the cut step leaves trace and time. -/
theorem resetCutsSequence : Obligations.ResetCutsSequence := by
  intro s u k hr hb hu
  obtain ⟨act, ha, htrace, htime⟩ := uncut_step hb hu
  have ht := step_of_during hr hb ha
  have hbefore := growsInOrder_of_step ht
  have hafter := (growsInOrder_take k (actionMicros act (clearPulses s)) (clearPulses s)).congr
    (endStep_trace (blockReset _) 0) (endStep_time (blockReset _) 0) htrace htime
  have hreset := atReset_endStep_blockReset (runMicros ((actionMicros act (clearPulses s)).take k) (clearPulses s))
  rw [runMicros_params] at hreset
  exact ⟨_, ht, hbefore.trace_prefix, hafter.trace_prefix, hbefore.time_le, hafter.time_le, hreset⟩

/-! ### The mode line and the bytes of an instruction (R297) -/

/-- After whole frames the device is deselected, as before them. -/
theorem framed_append {sel : Bool} {es : List Event} (h : framed sel es = true) (es' : List Event) :
    framed sel (es ++ es') = framed false es' := by
  induction es generalizing sel with
  | nil =>
    obtain rfl : sel = false := by simpa [framed] using h
    rfl
  | cons e es ih =>
    cases e with
    | _ =>
      obtain ⟨hsel, hes⟩ := Bool.and_eq_true_iff.mp h
      exact (congrArg₂ and hsel (ih hes)).trans (Bool.true_and _)

theorem framed_flatten {fs : List (List Event)} (h : ∀ f ∈ fs, framed false f = true) :
    framed false fs.flatten = true := by
  induction fs with
  | nil => rfl
  | cons f fs ih =>
    rw [List.forall_mem_cons] at h
    rw [List.flatten_cons, framed_append h.1, ih h.2]

/-- A block frame is whole, even one without bytes. -/
theorem framed_blockFrame (bs : List Byte) : framed false (blockFrame bs) = true := by
  have hbytes : framed true (bs.map Event.xfer ++ [.sel false]) = true := by
    induction bs with
    | nil => rfl
    | cons b bs ih => exact ih
  exact hbytes

theorem framed_of_eventUnit {p : Params} {f : List Event} (h : EventUnit p f) : framed false f = true := by
  rcases h with ⟨op, -, rfl⟩ | ⟨b, rfl⟩ | ⟨bs, -, rfl⟩ | ⟨l, rfl⟩ | ⟨w, rfl⟩
  · rfl
  · rfl
  · exact framed_blockFrame bs
  · rfl
  · rfl

/-- An instruction the spec does not allow emits one whole frame, of a byte that is no opcode or of no bytes, or
nothing. -/
theorem emits_framed_of_not_wellFormed {i : Instr} {s t : State} (hw : ¬i.wellFormed s.params = true)
    (h : exec i s = .next t) : ∃ f, Emits s t [f] ∧ framed false f = true := by
  cases i with
  | sendCmd op =>
    obtain rfl := Host.Outcome.next.inj h
    rw [runMicros_cmd]
    exact ⟨cmdFrame op, emits_of_stampAll rfl (by simp), rfl⟩
  | delay n =>
    obtain rfl := Host.Outcome.next.inj h
    rw [runMicros_delay]
    exact ⟨[], by simp [Emits], rfl⟩
  | sendBlock src =>
    obtain rfl := Host.Outcome.next.inj h
    cases src with
    | rowFetch => exact absurd rfl hw
    | bytes bs =>
      obtain rfl : bs = [] := by simpa [Instr.wellFormed, BlockSrc.nonempty] using hw
      refine ⟨blockFrame [], ?_, rfl⟩
      simp [Emits, blockMicros, blockXfers, runMicro, setMode, setSel, emit, blockFrame]
  | _ => exact absurd rfl hw

theorem emits_framed_of_exec {i : Instr} {s t : State} (h : exec i s = .next t) :
    ∃ fs, Emits s t fs ∧ ∀ f ∈ fs, framed false f = true := by
  by_cases hw : i.wellFormed s.params = true
  · obtain ⟨fs, hfs, hunits⟩ := emitsUnits_of_exec hw h
    exact ⟨fs, hfs, fun f hf => framed_of_eventUnit (hunits f hf)⟩
  · obtain ⟨f, hf, hframed⟩ := emits_framed_of_not_wellFormed hw h
    exact ⟨[f], hf, by simpa using hframed⟩

/-- Settles O27: every instruction emits whole frames, each of which begins and ends deselected. -/
theorem everyInstructionKeepsFraming : Obligations.EveryInstructionKeepsFraming := by
  intro s t i h
  obtain ⟨fs, hfs, hframed⟩ := emits_framed_of_exec h
  refine ⟨(growsInOrder_of_exec h).trace_prefix, ?framed⟩
  case framed => rw [events_emittedSince hfs, framed_flatten hframed]

end Sys2Proof.Machine
end
